-- ==== Sys2Proof/Word.lean ====
section
/-! DEFINITION. The word types: a byte (also a character, 00_scope.md 5.1) and a two-byte value. -/

namespace Sys2Proof

/-- A byte, and equally a character read as an ASCII code (00_scope.md 5.1, D36). -/
abbrev Byte := BitVec 8

/-- A 16-bit value: `BLEN`, `H_BC`, `S_ROOM` (10_state.md R13, R20, R21). -/
abbrev Half := BitVec 16

end Sys2Proof
end

