-- ==== Sys2Proof/Config.lean ====
section
/-! DEFINITION. The implementation parameters of 00_scope.md section 4, and the free values. -/

namespace Sys2Proof

/-- `TRAILING_POLICY` (41_decode.md R85, D11 OPEN): what decode does with characters after the checksum. -/
inductive TrailingPolicy where
  | ignore
  | reject
  deriving DecidableEq, Repr

/-- `SNAP_IDX` (20_memory.md R37, D27): the data-segment byte index of each snapshot field. -/
structure SnapIdx where
  power   : Nat
  fan     : Nat
  setTemp : Nat
  sweep   : Nat
  mode    : Nat
  roomLo  : Nat
  roomHi  : Nat
  deriving DecidableEq, Repr

/-- The parameters of 00_scope.md section 4. It is a field of State that no step writes, so that a
statement about every state is a statement about every configuration (log 3). -/
structure Config where
  rxMax    : Nat
  txMax    : Nat
  bufMax   : Nat
  addrMax  : Nat
  addrSep  : List Byte
  trailing : TrailingPolicy
  snapIdx  : SnapIdx
  deriving DecidableEq, Repr

/-- The reference values of 00_scope.md section 4. -/
def Config.reference : Config where
  rxMax    := 131100
  txMax    := 131100
  bufMax   := 65535
  addrMax  := 32
  addrSep  := [0x3A, 0x2D]
  trailing := .ignore
  snapIdx  := { power := 2, fan := 4, setTemp := 5, sweep := 7, mode := 8, roomLo := 9, roomHi := 10 }

/-- The three operand buffers (10_state.md R13). -/
inductive OperandBuf where
  | rx
  | buf
  | addr
  deriving DecidableEq, Repr

/-- FREE VALUE (log 6): what an element of an operand buffer holds that the host has not written since
reset number `epoch` (10_state.md R26 "unspecified", 70_reset_and_hazards.md R137). -/
opaque Config.unspecifiedByte (epoch : Nat) (b : OperandBuf) (index : Nat) : Byte

/-- The five 8-bit operand registers (10_state.md R13). -/
inductive OperandReg where
  | claim
  | fn
  | reg
  | cnt
  | val
  deriving DecidableEq, Repr

/-- FREE VALUE (log 4): what an 8-bit operand register holds that the host has not written since reset number
`epoch` (10_state.md R26 "unspecified", 70_reset_and_hazards.md R137). -/
opaque Config.unspecifiedReg (epoch : Nat) (r : OperandReg) : Byte

/-- FREE VALUE (log 8): what read number `draw` of a register that holds no value gives, at full width
(10_state.md R23 "draw any value"). -/
opaque Config.unspecifiedRead (draw : Nat) : Half

/-- FREE VALUE (log 17): whether `round` takes the half-way point above `n` up. Host software only
(91_not_in_source.md N13, 90_conflicts.md C6). -/
opaque Config.tieRoundsUp (n : Int) : Bool

end Sys2Proof
end

