-- ==== Sys2Proof/Syntax.lean ====
section
/-! DEFINITION. The rows of spec/opcode_table.json as one inductive type. -/

namespace Sys2Proof

/-- The six bytes of a device address, in text order: `a0` is frame byte 0 (20_memory.md R34, R36). -/
structure Addr6 where
  a0 : Byte
  a1 : Byte
  a2 : Byte
  a3 : Byte
  a4 : Byte
  a5 : Byte
  deriving DecidableEq, Repr

/-- One constructor per row of the table. The eight operation words carry no operand: an operation takes
its operands from fixed registers (30_encoding.md R50). The two frame rows carry the frame's bytes. -/
inductive Instr where
  /-- `OP` = 1, 40_lrc.md R71. -/
  | lrcCompute
  /-- `OP` = 2, 40_lrc.md R72. -/
  | lrcVerify
  /-- `OP` = 3, 41_decode.md R80. -/
  | frmDecode
  /-- `OP` = 4, 42_encode.md R100. -/
  | frmBuild
  /-- `OP` = 5, 42_encode.md R110. -/
  | frmWrcmd
  /-- `OP` = 0, 30_encoding.md R60. -/
  | reserved0
  /-- `OP` = 6, 30_encoding.md R60. -/
  | reserved6
  /-- `OP` = 7, 30_encoding.md R60. -/
  | reserved7
  /-- The 15-byte write-command frame (30_encoding.md R57): address, register, value, checksum byte. -/
  | frameWriteCommand (a : Addr6) (r v c : Byte)
  /-- Any other frame (20_memory.md R36): address, two reserved bytes, function, start register,
  register count, data segment, checksum byte. The byte count is the length of the data. -/
  | frameGeneral (a : Addr6) (s0 s1 f r n : Byte) (data : List Byte) (c : Byte)
  deriving DecidableEq, Repr

end Sys2Proof
end

