-- ==== Sys2Proof/WellFormed.lean ====
section
/-! DEFINITION. Which terms of Instr stand for encodable rows. -/

namespace Sys2Proof

/-- The header and length of a write-command frame (30_encoding.md R57): reserved 00 00, function 01,
register count 01, one data byte. -/
def isWriteCommand (s0 s1 f n : Byte) (dataLength : Nat) : Bool :=
  s0 == 0 && s1 == 0 && f == 1 && n == 1 && dataLength == 1

/-- A general frame's byte count fits its two bytes (20_memory.md R36), and a frame that is a
write-command frame is written as one (log 13). -/
def Instr.wellFormed : Instr → Bool
  | .lrcCompute => true
  | .lrcVerify => true
  | .frmDecode => true
  | .frmBuild => true
  | .frmWrcmd => true
  | .reserved0 => true
  | .reserved6 => true
  | .reserved7 => true
  | .frameWriteCommand _ _ _ _ => true
  | .frameGeneral _ s0 s1 f _ n data _ =>
    decide (data.length ≤ 65535) && !isWriteCommand s0 s1 f n data.length

end Sys2Proof
end

