-- ==== Sys2Proof/Decode.lean ====
section
/-! DEFINITION. Reading an instruction from its bytes, the encoder, and the table's numbering of words. -/

namespace Sys2Proof

/-- `le16(lo, hi) = lo + 256*hi` (00_scope.md 5.4, 20_memory.md R33). -/
def le16 (lo hi : Byte) : Half := BitVec.ofNat 16 (lo.toNat + 256 * hi.toNat)

/-- `n mod 256`: the byte that comes first (30_encoding.md R55). -/
def lowByte (n : Nat) : Byte := BitVec.ofNat 8 (n % 256)

/-- `n div 256`: the byte that comes second (30_encoding.md R55). -/
def highByte (n : Nat) : Byte := BitVec.ofNat 8 (n / 256)

/-- The address bytes in frame order (20_memory.md R34). -/
def Addr6.toList (a : Addr6) : List Byte := [a.a0, a.a1, a.a2, a.a3, a.a4, a.a5]

/-- Frame bytes 0 to 12 (20_memory.md R36). -/
def headerBytes (a : Addr6) (s0 s1 f r n : Byte) (byteCount : Nat) : List Byte :=
  a.toList ++ [s0, s1, f, r, n, lowByte byteCount, highByte byteCount]

/-- Why bytes are no instruction. -/
inductive DecodeError where
  /-- No byte at all. -/
  | empty
  /-- One byte whose value does not fit the 3 bits of `OP` (10_state.md R13). -/
  | opTooWide
  /-- More than one byte, but fewer than the 14 bytes of the shortest frame (20_memory.md R36). -/
  | frameTooShort
  /-- A frame whose length is not 14 plus its byte count (20_memory.md R36). -/
  | frameLength
  deriving DecidableEq, Repr

/-- The operation codes (30_encoding.md R50, R60). -/
def decodeOp (b : Byte) : Except DecodeError Instr :=
  match b.toNat with
  | 0 => .ok .reserved0
  | 1 => .ok .lrcCompute
  | 2 => .ok .lrcVerify
  | 3 => .ok .frmDecode
  | 4 => .ok .frmBuild
  | 5 => .ok .frmWrcmd
  | 6 => .ok .reserved6
  | 7 => .ok .reserved7
  | _ => .error .opTooWide

/-- The row a frame belongs to (30_encoding.md R57 before 20_memory.md R36; log 13). -/
def frameInstr (a : Addr6) (s0 s1 f r n : Byte) (data : List Byte) (c : Byte) : Instr :=
  if isWriteCommand s0 s1 f n data.length then .frameWriteCommand a r (data.headD 0) c
  else .frameGeneral a s0 s1 f r n data c

/-- A frame's bytes: 13 header bytes, the data segment its byte count announces, one checksum byte
(20_memory.md R36). -/
def decodeFrame : List Byte → Except DecodeError Instr
  | a0 :: a1 :: a2 :: a3 :: a4 :: a5 :: s0 :: s1 :: f :: r :: n :: l :: h :: c0 :: rest =>
    if rest.length = (le16 l h).toNat then
      .ok (frameInstr ⟨a0, a1, a2, a3, a4, a5⟩ s0 s1 f r n
        ((c0 :: rest).take (le16 l h).toNat) ((c0 :: rest).getD (le16 l h).toNat 0))
    else .error .frameLength
  | _ => .error .frameTooShort

/-- Total on any bytes: nothing is refused by name, one byte is a value for `OP`, more bytes are a frame. -/
def decode : List Byte → Except DecodeError Instr
  | [] => .error .empty
  | [b] => decodeOp b
  | b0 :: b1 :: bs => decodeFrame (b0 :: b1 :: bs)

/-- The words of an instruction: the code of an operation (30_encoding.md R50, R60), or the frame's bytes
(30_encoding.md R57, 20_memory.md R36). -/
def encode : Instr → List Byte
  | .lrcCompute => [1]
  | .lrcVerify => [2]
  | .frmDecode => [3]
  | .frmBuild => [4]
  | .frmWrcmd => [5]
  | .reserved0 => [0]
  | .reserved6 => [6]
  | .reserved7 => [7]
  | .frameWriteCommand a r v c => headerBytes a 0 0 1 r 1 1 ++ [v, c]
  | .frameGeneral a s0 s1 f r n data c => headerBytes a s0 s1 f r n data.length ++ data ++ [c]

/-- The `k` bytes of a word, the first byte its bits 7..0 (log 12). -/
def wordBytes : Nat → Nat → List Byte
  | 0, _ => []
  | k + 1, w => lowByte w :: wordBytes k (w / 256)

/-- The bytes of an instruction whose first `nbits` bits are `w`. Where they hold a frame's 13 header
bytes, the data and checksum bytes beyond `nbits` that the byte count announces are zero (log 12). -/
def tableBytes (nbits w : Nat) : List Byte :=
  let bs := wordBytes ((nbits + 7) / 8) w
  if bs.length < 13 then bs
  else bs ++ List.replicate (14 + (le16 (bs.getD 11 0) (bs.getD 12 0)).toNat - bs.length) 0

/-- What the decoder reads from a word numbered as the table numbers it. -/
def decodeTableWord (nbits w : Nat) : Option Instr :=
  match decode (tableBytes nbits w) with
  | .ok i => some i
  | .error _ => none

end Sys2Proof
end

