-- ==== Sys2Proof/Machine/State.lean ====
section
/-! DEFINITION. The machine's state as plain data, the host's steps, the reasons to stop, and reset. -/

namespace Sys2Proof.Machine

/-- `STATUS`, 3 bits (60_exceptions.md R115). Code 7 is never written, so it has no constructor. -/
inductive Status where
  | idle
  | ok
  | malformed
  | checksum
  | noSnap
  | caller
  | badOp
  deriving DecidableEq, Repr

/-- `CAUSE`, 4 bits (60_exceptions.md R116). Codes 12 to 15 are never written. -/
inductive Cause where
  | none
  | delimOpen
  | delimClose
  | short
  | nonHex
  | overrun
  | trailing
  | csum
  | noSnap
  | addr
  | len
  | op
  deriving DecidableEq, Repr

/-- A buffer's contents: (index, byte) cells, indexes strictly rising. An index that is not listed holds
no value (10_state.md R23, R26). -/
abbrev Memory := List Host.Cell

/-- The operand registers (10_state.md R13); the two lengths of configured width are numbers (log 16). -/
structure Operands where
  rx    : Memory
  rxLen : Nat
  buf   : Memory
  bLen  : Half
  claim : Byte
  addr  : Memory
  aLen  : Nat
  fn    : Byte
  reg   : Byte
  cnt   : Byte
  val   : Byte
  deriving DecidableEq, Repr

/-- The LRC group (10_state.md R19). `lrc` is meaningful under `lrcV`, `mat` (MATCH) under `matV`. -/
structure LrcGroup where
  lrc  : Byte
  lrcV : Bool
  mat  : Bool
  matV : Bool
  deriving DecidableEq, Repr

/-- The decode group (10_state.md R20, R21). The header registers and `dseg` are meaningful under `hV`,
the snapshot registers under `sV`. -/
structure DecodeGroup where
  hV       : Bool
  hAddr    : Addr6
  hRsvd0   : Byte
  hRsvd1   : Byte
  hFn      : Byte
  hReg     : Byte
  hCnt     : Byte
  hBc      : Half
  dseg     : Memory
  sV       : Bool
  sPower   : Byte
  sFan     : Byte
  sSetTemp : Byte
  sSweep   : Byte
  sMode    : Byte
  sRoom    : Half
  deriving DecidableEq, Repr

/-- The transmit group (10_state.md R22). -/
structure TxGroup where
  tx    : Memory
  txLen : Nat
  deriving DecidableEq, Repr

/-- An LRC group that holds no value (10_state.md R23, R26; the byte is log 5's). -/
def LrcGroup.empty : LrcGroup := { lrc := 0, lrcV := false, mat := false, matV := false }

/-- A decode group that holds no value (10_state.md R23, R26; the bytes are log 5's). -/
def DecodeGroup.empty : DecodeGroup where
  hV       := false
  hAddr    := ⟨0, 0, 0, 0, 0, 0⟩
  hRsvd0   := 0
  hRsvd1   := 0
  hFn      := 0
  hReg     := 0
  hCnt     := 0
  hBc      := 0
  dseg     := []
  sV       := false
  sPower   := 0
  sFan     := 0
  sSetTemp := 0
  sSweep   := 0
  sMode    := 0
  sRoom    := 0

/-- A transmit group that holds no frame (10_state.md R22). -/
def TxGroup.empty : TxGroup := { tx := [], txLen := 0 }

/-- Which lengths and 8-bit operands the host has written since reset (log 10). Of an 8-bit operand that is not
written an operation reads a free byte (log 4). The lengths' flags say a host duty of 70_reset_and_hazards.md
R137 and no step reads them. -/
structure Written where
  rxLen : Bool
  bLen  : Bool
  aLen  : Bool
  claim : Bool
  fn    : Bool
  reg   : Bool
  cnt   : Bool
  val   : Bool
  deriving DecidableEq, Repr

/-- Nothing is written yet. -/
def Written.nothing : Written where
  rxLen := false
  bLen  := false
  aLen  := false
  claim := false
  fn    := false
  reg   := false
  cnt   := false
  val   := false

/-- Every register and buffer element the host can name (10_state.md sections 2 and 3). -/
inductive RegName where
  | op
  | rx (i : Nat)
  | rxLen
  | buf (i : Nat)
  | bLen
  | claim
  | addr (i : Nat)
  | aLen
  | fn
  | reg
  | cnt
  | val
  | status
  | cause
  | lrc
  | lrcV
  | mat
  | matV
  | hV
  | hAddr (i : Nat)
  | hRsvd (i : Nat)
  | hFn
  | hReg
  | hCnt
  | hBc
  | dseg (i : Nat)
  | sV
  | sPower
  | sFan
  | sSetTemp
  | sSweep
  | sMode
  | sRoom
  | tx (i : Nat)
  | txLen
  deriving DecidableEq, Repr

/-- One thing the host does (70_reset_and_hazards.md R144, R146). -/
inductive HostStep where
  /-- The host hands the block something to act on: one byte is a write of that value to `OP`
  (10_state.md R17), more bytes are a frame that arrives (log 2). -/
  | issue (word : List Byte)
  /-- A register write. -/
  | write (r : RegName) (v : Nat)
  /-- A register read. -/
  | read (r : RegName)
  /-- The reset input is asserted (70_reset_and_hazards.md R135). -/
  | reset
  deriving DecidableEq, Repr

/-- Why the machine stops. No operation of the block raises one (60_exceptions.md R120). -/
inductive Fault where
  /-- Raised by a host read of `OP`, which "is not readable" (10_state.md R17). Safe (log 8). -/
  | readOfOp
  /-- Raised by a host access to a buffer element at or above the buffer's capacity, which does not exist
  (10_state.md R13, R20, R22). Safe (log 9). -/
  | noSuchElement (r : RegName)
  deriving DecidableEq, Repr

/-- What the model gives no meaning to. -/
inductive Refusal where
  /-- An instruction without a meaning; raised by no arm of exec. Safe. -/
  | notModelled (mnemonic : String)
  /-- Raised for issued bytes that are neither a value of `OP` nor a frame. Safe (log 12). -/
  | undecodable (e : DecodeError)
  /-- Raised by a host write of a value that the register cannot hold: such a length or byte cannot be
  presented to the block (10_state.md R14 to R16, U14). Safe (log 9). -/
  | notExpressible (r : RegName)
  /-- Raised by the receipt of a frame whose token is longer than `RX_MAX`, which cannot be presented to
  the block at all (10_state.md R14, U14). Safe (log 9). -/
  | tokenTooLong
  deriving DecidableEq, Repr

/-- The machine. The fields from `inbox` on are the model's own (logs 1, 7, 8, 10, 18). -/
structure State where
  /-- The implementation parameters; no step writes them (log 3). -/
  cfg      : Config
  /-- 10_state.md section 2. -/
  opd      : Operands
  /-- 10_state.md R18. -/
  status   : Status
  /-- 10_state.md R18. -/
  cause    : Cause
  /-- 10_state.md R19. -/
  lrcg     : LrcGroup
  /-- 10_state.md R20, R21. -/
  dec      : DecodeGroup
  /-- 10_state.md R22. -/
  txg      : TxGroup
  /-- `EV_CSUM` during the last step (60_exceptions.md R121; log 11). -/
  evCsum   : Bool
  /-- `EV_MALF` during the last step (60_exceptions.md R122; log 11). -/
  evMalf   : Bool
  /-- The host's steps still to come, the next one first (log 1). -/
  inbox    : List HostStep
  /-- What the last host read gave (log 18). -/
  readData : Nat
  /-- How many host reads of a register without a value there have been; argument of the free values those
  reads give (log 8). -/
  draws    : Nat
  /-- How many resets there have been; argument of the free bytes (log 7). -/
  epoch    : Nat
  /-- Which lengths and 8-bit operands the host has written since reset (log 10). -/
  written  : Written
  deriving DecidableEq, Repr

/-- The operand registers after reset: lengths 0, buffers unwritten, and log 4's placeholder in the five 8-bit
registers that 10_state.md R26 leaves unspecified (operandByte never shows it). -/
def Operands.reset : Operands where
  rx    := []
  rxLen := 0
  buf   := []
  bLen  := 0
  claim := 0
  addr  := []
  aLen  := 0
  fn    := 0
  reg   := 0
  cnt   := 0
  val   := 0

/-- The state after reset (10_state.md R26, 70_reset_and_hazards.md R135), at the reference configuration. -/
def State.reset : State where
  cfg      := Config.reference
  opd      := Operands.reset
  status   := .idle
  cause    := .none
  lrcg     := LrcGroup.empty
  dec      := DecodeGroup.empty
  txg      := TxGroup.empty
  evCsum   := false
  evMalf   := false
  inbox    := []
  readData := 0
  draws    := 0
  epoch    := 0
  written  := Written.nothing

/-- What one operation or one step answers. -/
abbrev Answer := Host.Outcome State Fault Refusal

end Sys2Proof.Machine
end

