-- ==== Sys2Proof/Machine/Flags.lean ====
section
/-! DEFINITION. The outcome codes, the event outputs and the match flag. -/

namespace Sys2Proof.Machine

/-- The number in `STATUS` (60_exceptions.md R115). -/
def Status.code : Status → BitVec 3
  | .idle => 0
  | .ok => 1
  | .malformed => 2
  | .checksum => 3
  | .noSnap => 4
  | .caller => 5
  | .badOp => 6

/-- The number in `CAUSE` (60_exceptions.md R116). -/
def Cause.code : Cause → BitVec 4
  | .none => 0
  | .delimOpen => 1
  | .delimClose => 2
  | .short => 3
  | .nonHex => 4
  | .overrun => 5
  | .trailing => 6
  | .csum => 7
  | .noSnap => 8
  | .addr => 9
  | .len => 10
  | .op => 11

/-- The `STATUS` a cause comes with once an operation has been issued (60_exceptions.md R116). -/
def Cause.status : Cause → Status
  | .none => .ok
  | .delimOpen => .malformed
  | .delimClose => .malformed
  | .short => .malformed
  | .nonHex => .malformed
  | .overrun => .malformed
  | .trailing => .malformed
  | .csum => .checksum
  | .noSnap => .noSnap
  | .addr => .caller
  | .len => .caller
  | .op => .badOp

/-- `EV_CSUM` accompanies `ST_CHECKSUM` and nothing else (60_exceptions.md R121). -/
def csumEvent (st : Status) : Bool := st == .checksum

/-- `EV_MALF` accompanies `ST_MALFORMED` and `ST_NOSNAP` and nothing else (60_exceptions.md R122). -/
def malfEvent (st : Status) : Bool := st == .malformed || st == .noSnap

/-- `MATCH`: the computed checksum is the claimed byte (40_lrc.md R72). -/
def matchFlag (computed claimed : Byte) : Bool := computed == claimed

/-- A 1-bit register as the host reads it. -/
def bit (b : Bool) : Nat := if b then 1 else 0

end Sys2Proof.Machine
end

