-- ==== Sys2Proof/Machine/Ops.lean ====
section
/-! DEFINITION. The named operations over the buffers, the success and failure commits, and reset. -/

namespace Sys2Proof.Machine

/-- A buffer's canonical form: indexes strictly rising. An unlisted index holds no value, so no listed
cell can equal it (10_state.md R23, R26). -/
abbrev Memory.wf (m : Memory) : Prop := m.Pairwise (fun x y => x.1 < y.1)

/-- The byte at an index, or none where nothing is held. -/
def readCell : Memory → Nat → Option Byte
  | [], _ => none
  | (k, v) :: m, a => if a = k then some v else readCell m a

/-- Store one byte, keeping the canonical form. -/
def writeCell : Memory → Nat → Byte → Memory
  | [], a, b => [(a, b)]
  | (k, v) :: m, a, b =>
    if a < k then (a, b) :: (k, v) :: m
    else if a = k then (a, b) :: m
    else (k, v) :: writeCell m a b

/-- `MemWrite` (00_scope.md 5.3): store a sequence from an index up. -/
def writeCells : Memory → Nat → List Byte → Memory
  | m, _, [] => m
  | m, a, b :: bs => writeCells (writeCell m a b) (a + 1) bs

/-- The buffer that holds exactly a sequence, from an index up: a result buffer whose other elements hold
no value (10_state.md R20, R22, R23). -/
def cellsFrom : Nat → List Byte → Memory
  | _, [] => []
  | a, b :: bs => (a, b) :: cellsFrom (a + 1) bs

/-- `MemRead(B, a, n)` (00_scope.md 5.3). An element that holds no value gives the byte of `free`. -/
def readCells (free : Nat → Byte) (m : Memory) : Nat → Nat → List Byte
  | _, 0 => []
  | a, n + 1 => (readCell m a).getD (free a) :: readCells free m (a + 1) n

/-- The group an operation owns, for the failure commit (10_state.md R12, 60_exceptions.md R124 (ii)). -/
inductive OwnGroup where
  | decode
  | transmit
  | none
  deriving DecidableEq, Repr

/-- The decode group without its snapshot (41_decode.md R90: `S_V = 0`, header kept). -/
def dropSnapshot (d : DecodeGroup) : DecodeGroup :=
  { DecodeGroup.empty with
    hV := d.hV, hAddr := d.hAddr, hRsvd0 := d.hRsvd0, hRsvd1 := d.hRsvd1, hFn := d.hFn, hReg := d.hReg,
    hCnt := d.hCnt, hBc := d.hBc, dseg := d.dseg }

/-- Clear the valid indications of the failing operation's own group (60_exceptions.md R124 (ii)).
`ST_NOSNAP` is raised after the header is written and keeps it. -/
def clearOwnGroup (g : OwnGroup) (st : Status) (s : State) : State :=
  match g with
  | .decode => { s with dec := if st = .noSnap then dropSnapshot s.dec else DecodeGroup.empty }
  | .transmit => { s with txg := TxGroup.empty }
  | .none => s

/-- Write the outcome and drive the events (10_state.md R18, 60_exceptions.md R121, R122, R124). -/
def commitOutcome (st : Status) (c : Cause) (s : State) : State :=
  { s with status := st, cause := c, evCsum := csumEvent st, evMalf := malfEvent st }

/-- `raise <Status>(cause)`: the failure commit (60_exceptions.md R124, 00_scope.md 5.3). This is all
the block has in place of taking an exception: nothing is saved and control goes nowhere (R120, R125). -/
def raise (g : OwnGroup) (st : Status) (c : Cause) (s : State) : State :=
  commitOutcome st c (clearOwnGroup g st s)

/-- The commit of a success: `ST_OK`, `C_NONE`, no event. -/
def succeed (s : State) : State := commitOutcome .ok .none s

/-- A step that is no operation asserts no event (60_exceptions.md R121, R122). -/
def quiet (s : State) : State := { s with evCsum := false, evMalf := false }

/-- The reset input (70_reset_and_hazards.md R135): every piece of the block's state at its reset value.
The configuration and the host's side of the interface stay (log 21); `epoch` counts the reset (log 7). -/
def resetBlock (s : State) : State :=
  { State.reset with
    cfg := s.cfg, inbox := s.inbox, readData := s.readData, draws := s.draws, epoch := s.epoch + 1 }

end Sys2Proof.Machine
end

