-- ==== Sys2Proof/Machine/Operands.lean ====
section
/-! DEFINITION. How an operation reads its operands (20_memory.md R40). -/

namespace Sys2Proof.Machine

/-- What an operand buffer's unwritten element holds: a free byte (log 6). -/
def freeByte (s : State) (b : OperandBuf) (i : Nat) : Byte := Config.unspecifiedByte s.epoch b i

/-- An 8-bit operand as an operation reads it: what the host last wrote (10_state.md R13), and before any
write since reset a free byte, "unspecified" (10_state.md R26, 70_reset_and_hazards.md R137; log 4). -/
def operandByte (s : State) : OperandReg → Byte
  | .claim => if s.written.claim then s.opd.claim else Config.unspecifiedReg s.epoch .claim
  | .fn => if s.written.fn then s.opd.fn else Config.unspecifiedReg s.epoch .fn
  | .reg => if s.written.reg then s.opd.reg else Config.unspecifiedReg s.epoch .reg
  | .cnt => if s.written.cnt then s.opd.cnt else Config.unspecifiedReg s.epoch .cnt
  | .val => if s.written.val then s.opd.val else Config.unspecifiedReg s.epoch .val

/-- The token `RX[0 .. RXLEN-1]` (10_state.md R14). -/
def rxText (s : State) : List Byte := readCells (freeByte s .rx) s.opd.rx 0 s.opd.rxLen

/-- The bytes `BUF[0 .. BLEN-1]` (10_state.md R15). -/
def bufBytes (s : State) : List Byte := readCells (freeByte s .buf) s.opd.buf 0 s.opd.bLen.toNat

/-- The address text `ADDR[0 .. ALEN-1]` (10_state.md R16). -/
def addrText (s : State) : List Byte := readCells (freeByte s .addr) s.opd.addr 0 s.opd.aLen

end Sys2Proof.Machine
end

