-- ==== Sys2Proof/Machine/Text.lean ====
section
/-! DEFINITION. Characters, hex digits and bytes: the helper functions of 00_scope.md 5.4. -/

namespace Sys2Proof.Machine

/-- `{` (30_encoding.md R52, R53). -/
def openBrace : Byte := 0x7B

/-- `}` (30_encoding.md R52, R53). -/
def closeBrace : Byte := 0x7D

/-- Exactly the 22 hex digits of 30_encoding.md R52. -/
def ishex (c : Byte) : Bool :=
  decide ((0x30 ≤ c.toNat ∧ c.toNat ≤ 0x39) ∨ (0x41 ≤ c.toNat ∧ c.toNat ≤ 0x46)
    ∨ (0x61 ≤ c.toNat ∧ c.toNat ≤ 0x66))

/-- The value of a hex digit, under the precondition `ishex c` (00_scope.md 5.4). -/
def hexval (c : Byte) : Nat :=
  if c.toNat ≤ 0x39 then c.toNat - 0x30 else if c.toNat ≤ 0x46 then c.toNat - 0x37 else c.toNat - 0x57

/-- The upper-case digit of a value up to 15 (00_scope.md 5.4). -/
def hexchar (v : Nat) : Byte :=
  if v ≤ 9 then BitVec.ofNat 8 (0x30 + v) else BitVec.ofNat 8 (0x37 + v)

/-- The two characters of a byte, high nibble first (00_scope.md 5.4, 20_memory.md R32). -/
def hex2 (b : Byte) : List Byte := [hexchar (b.toNat / 16), hexchar (b.toNat % 16)]

/-- The characters of a byte sequence (00_scope.md 5.4). -/
def hexseq : List Byte → List Byte
  | [] => []
  | b :: bs => hex2 b ++ hexseq bs

/-- The byte spelled by characters `2k` and `2k+1` of `t`, under the precondition that both exist and
are hex digits (00_scope.md 5.4, 20_memory.md R32). -/
def byteAt (t : List Byte) (k : Nat) : Byte :=
  BitVec.ofNat 8 (16 * hexval (t.getD (2 * k) 0) + hexval (t.getD (2 * k + 1) 0))

/-- The upper-case form of a letter (00_scope.md 5.4). -/
def upper (c : Byte) : Byte :=
  if 0x61 ≤ c.toNat ∧ c.toNat ≤ 0x7A then BitVec.ofNat 8 (c.toNat - 0x20) else c

/-- The sum of a byte sequence as an unbounded number (00_scope.md 5.2). -/
def byteSum : List Byte → Nat
  | [] => 0
  | b :: bs => b.toNat + byteSum bs

/-- The checksum, `(0xFF - (sum(bs) mod 256) + 1) mod 256` (40_lrc.md R70). -/
def lrc (bs : List Byte) : Byte := BitVec.ofNat 8 ((0xFF - byteSum bs % 256 + 1) % 256)

/-- The character comparison of 40_lrc.md R74, as its formula has it. -/
def charsMatch (bs : List Byte) (c0 c1 : Byte) : Bool := hex2 (lrc bs) == [upper c0, upper c1]

/-- The source's text form of verify (40_lrc.md R74). For a claim that is not two hex digits it has no value:
such an input "cannot be expressed" (93_implementation_defined.md U1; log 23). The block compares bytes. -/
def verifyText (bs : List Byte) (c0 c1 : Byte) : Option Bool :=
  if ishex c0 && ishex c1 then some (charsMatch bs c0 c1) else none

/-- The largest index of `SNAP_IDX` (41_decode.md R80 line 14, R90). -/
def maxSnapIdx (x : SnapIdx) : Nat :=
  max x.power (max x.fan (max x.setTemp (max x.sweep (max x.mode (max x.roomLo x.roomHi)))))

/-- What holds of every configuration (00_scope.md section 4, R5). -/
def configOk (c : Config) : Bool :=
  decide (32 ≤ c.rxMax) && decide (32 ≤ c.txMax) && decide (1 ≤ c.bufMax) && decide (c.bufMax ≤ 65535)
    && decide (12 ≤ c.addrMax) && c.addrSep.all (fun ch => !ishex ch)
    && decide (maxSnapIdx c.snapIdx < 65535)

end Sys2Proof.Machine
end

