-- ==== Sys2Proof/Machine/Encoder.lean ====
section
/-! DEFINITION. The frame encoder: FRM.BUILD and FRM.WRCMD (42_encode.md). -/

namespace Sys2Proof.Machine

/-- The address text without the characters of `ADDR_SEP` (42_encode.md R101). -/
def normaliseAddr (cfg : Config) (text : List Byte) : List Byte :=
  text.filter (fun c => !cfg.addrSep.contains c)

/-- Exactly 12 hex digits (42_encode.md R102). -/
def addrIsOk (a : List Byte) : Bool := a.length == 12 && a.all ishex

/-- The six address bytes of 12 hex digits (42_encode.md R101). -/
def addrOf (a : List Byte) : Addr6 :=
  ⟨byteAt a 0, byteAt a 1, byteAt a 2, byteAt a 3, byteAt a 4, byteAt a 5⟩

/-- The covered bytes of a built frame (42_encode.md R103, R104). -/
def builtBytes (a : Addr6) (fn reg cnt : Byte) (data : List Byte) : List Byte :=
  headerBytes a 0 0 fn reg cnt data.length ++ data

/-- A frame's text: `{`, two upper-case digits a byte, `}` (42_encode.md R107). -/
def tokenOf (f : List Byte) : List Byte := openBrace :: (hexseq f ++ [closeBrace])

/-- Lines 1 to 7 of 42_encode.md R100: the token, or the cause of the caller error. -/
def buildToken (cfg : Config) (addr : List Byte) (fn reg cnt : Byte) (data : List Byte) :
    Except Cause (List Byte) :=
  let a := normaliseAddr cfg addr
  if !addrIsOk a then .error .addr
  else if 30 + 2 * data.length > cfg.txMax then .error .len
  else
    let f := builtBytes (addrOf a) fn reg cnt data
    .ok (tokenOf (f ++ [lrc f]))

/-- What a build leaves: the transmit group holds exactly the token, or nothing (42_encode.md R100 line 0
and 8, R108; 60_exceptions.md R124). -/
def commitBuild (s : State) : Except Cause (List Byte) → State
  | .error c => raise .transmit .caller c s
  | .ok tok => succeed { s with txg := { tx := cellsFrom 0 tok, txLen := tok.length } }

/-- `FRM.BUILD` (42_encode.md R100). -/
def execFrmBuild (s : State) : Answer :=
  .next (commitBuild s (buildToken s.cfg (addrText s) (operandByte s .fn) (operandByte s .reg) (operandByte s .cnt)
    (bufBytes s)))

/-- `FRM.WRCMD` (42_encode.md R110): FRM.BUILD with function 01, count 01 and the one data byte `VAL`;
the length test it shares fails in no legal configuration (log 15). -/
def execFrmWrcmd (s : State) : Answer :=
  .next (commitBuild s (buildToken s.cfg (addrText s) 1 (operandByte s .reg) 1 [operandByte s .val]))

end Sys2Proof.Machine
end

