-- ==== Sys2Proof/Machine/Parser.lean ====
section
/-! DEFINITION. The frame parser: FRM.DECODE (41_decode.md). -/

namespace Sys2Proof.Machine

/-- The header of a frame whose checksum verified (41_decode.md R89). -/
structure HeaderVals where
  addr  : Addr6
  rsvd0 : Byte
  rsvd1 : Byte
  fn    : Byte
  reg   : Byte
  cnt   : Byte
  bc    : Half
  data  : List Byte
  deriving DecidableEq, Repr

/-- The snapshot (41_decode.md R91), raw integers. -/
structure SnapVals where
  power   : Byte
  fan     : Byte
  setTemp : Byte
  sweep   : Byte
  mode    : Byte
  room    : Half
  deriving DecidableEq, Repr

/-- How a decode ends (41_decode.md R95). -/
inductive DecodeResult where
  | malformed (c : Cause)
  | checksum
  | noSnap (h : HeaderVals)
  | snap (h : HeaderVals) (v : SnapVals)
  deriving DecidableEq, Repr

/-- The stripped text: exactly one character less at each end (20_memory.md R31, D10). -/
def stripped (token : List Byte) : List Byte := (token.drop 1).take (token.length - 2)

/-- Positions 22 to 25 are hex digits (41_decode.md R83). -/
def countIsHex (t : List Byte) : Bool :=
  ishex (t.getD 22 0) && ishex (t.getD 23 0) && ishex (t.getD 24 0) && ishex (t.getD 25 0)

/-- The byte count, little-endian, frame bytes 11 and 12 (41_decode.md R83). -/
def byteCount (t : List Byte) : Half := le16 (byteAt t 11) (byteAt t 12)

/-- The position after the checksum, `28 + 2*bc` (41_decode.md R84). -/
def frameEnd (t : List Byte) : Nat := 28 + 2 * (byteCount t).toNat

/-- `F[0 .. 13+bc]` (41_decode.md R87). -/
def frameBytes (t : List Byte) : List Byte := (List.range (14 + (byteCount t).toNat)).map (byteAt t)

/-- The covered bytes `F[0 : 13+bc)` (41_decode.md R87, R88). -/
def coveredBytes (t : List Byte) : List Byte := (frameBytes t).take (13 + (byteCount t).toNat)

/-- The claimed checksum `F[13+bc]` (41_decode.md R87, R88). -/
def claimedByte (t : List Byte) : Byte := (frameBytes t).getD (13 + (byteCount t).toNat) 0

/-- The header fields and the data segment out of the frame bytes (41_decode.md R89). -/
def headerOf (f : List Byte) (bc : Half) : HeaderVals where
  addr  := ⟨f.getD 0 0, f.getD 1 0, f.getD 2 0, f.getD 3 0, f.getD 4 0, f.getD 5 0⟩
  rsvd0 := f.getD 6 0
  rsvd1 := f.getD 7 0
  fn    := f.getD 8 0
  reg   := f.getD 9 0
  cnt   := f.getD 10 0
  bc    := bc
  data  := (f.drop 13).take bc.toNat

/-- The snapshot out of the data segment (41_decode.md R91). -/
def snapOf (x : SnapIdx) (d : List Byte) : SnapVals where
  power   := d.getD x.power 0
  fan     := d.getD x.fan 0
  setTemp := d.getD x.setTemp 0
  sweep   := d.getD x.sweep 0
  mode    := d.getD x.mode 0
  room    := le16 (d.getD x.roomLo 0) (d.getD x.roomHi 0)

/-- Lines 13 to 16 of 41_decode.md R80: a frame whose checksum verified. -/
def parseVerified (cfg : Config) (h : HeaderVals) : DecodeResult :=
  if h.bc.toNat ≤ maxSnapIdx cfg.snapIdx then .noSnap h else .snap h (snapOf cfg.snapIdx h.data)

/-- Lines 4 to 12 of 41_decode.md R80, on the stripped text. -/
def parseText (cfg : Config) (t : List Byte) : DecodeResult :=
  if t.length < 30 then .malformed .short
  else if !countIsHex t then .malformed .nonHex
  else if frameEnd t > t.length then .malformed .overrun
  else if cfg.trailing = .reject ∧ frameEnd t ≠ t.length then .malformed .trailing
  else if !(t.take (frameEnd t)).all ishex then .malformed .nonHex
  else if lrc (coveredBytes t) ≠ claimedByte t then .checksum
  else parseVerified cfg (headerOf (frameBytes t) (byteCount t))

/-- Lines 1 to 3 of 41_decode.md R80: the delimiters (R81), then the stripped text. -/
def parseToken (cfg : Config) (token : List Byte) : DecodeResult :=
  if token.head? ≠ some openBrace then .malformed .delimOpen
  else if token.getLast? ≠ some closeBrace then .malformed .delimClose
  else parseText cfg (stripped token)

/-- The decode group with a header and no snapshot (41_decode.md R89, R90). -/
def headerGroup (h : HeaderVals) : DecodeGroup :=
  { DecodeGroup.empty with
    hV := true, hAddr := h.addr, hRsvd0 := h.rsvd0, hRsvd1 := h.rsvd1, hFn := h.fn, hReg := h.reg,
    hCnt := h.cnt, hBc := h.bc, dseg := cellsFrom 0 h.data }

/-- The decode group with a header and a snapshot (41_decode.md R89, R91, R93). -/
def snapGroup (h : HeaderVals) (v : SnapVals) : DecodeGroup :=
  { headerGroup h with
    sV := true, sPower := v.power, sFan := v.fan, sSetTemp := v.setTemp, sSweep := v.sweep,
    sMode := v.mode, sRoom := v.room }

/-- What a decode leaves (41_decode.md R93, R96, 60_exceptions.md R124). -/
def commitDecode (s : State) : DecodeResult → State
  | .malformed c => raise .decode .malformed c s
  | .checksum => raise .decode .checksum .csum s
  | .noSnap h => raise .decode .noSnap .noSnap { s with dec := headerGroup h }
  | .snap h v => succeed { s with dec := snapGroup h v }

/-- What decoding the token in `RX` leaves (41_decode.md R80). -/
def decodeRx (s : State) : State := commitDecode s (parseToken s.cfg (rxText s))

/-- `FRM.DECODE` (41_decode.md R80). -/
def execFrmDecode (s : State) : Answer := .next (decodeRx s)

end Sys2Proof.Machine
end

