-- ==== Sys2Proof/Machine/Frames.lean ====
section
/-! DEFINITION. The receipt of a frame: the two frame rows of the table (log 2). -/

namespace Sys2Proof.Machine

/-- The host presents a token: `RX[0 ..]` and `RXLEN` (30_encoding.md R64, 70_reset_and_hazards.md R144). -/
def presentToken (tok : List Byte) (s : State) : State :=
  { s with
    opd := { s.opd with rx := writeCells s.opd.rx 0 tok, rxLen := tok.length }
    written := { s.written with rxLen := true } }

/-- A frame arrives: its token is presented and decoded (log 2). A token longer than `RX_MAX` cannot be
presented at all (10_state.md R14). -/
def receiveFrame (f : List Byte) (s : State) : Answer :=
  if (tokenOf f).length ≤ s.cfg.rxMax then .next (decodeRx (presentToken (tokenOf f) s))
  else .refused .tokenTooLong

/-- FRAME.WRITE_COMMAND (30_encoding.md R57). -/
def execFrameWriteCommand (a : Addr6) (r v c : Byte) (s : State) : Answer :=
  receiveFrame (headerBytes a 0 0 1 r 1 1 ++ [v, c]) s

/-- FRAME.GENERAL (20_memory.md R36). -/
def execFrameGeneral (a : Addr6) (s0 s1 f r n : Byte) (data : List Byte) (c : Byte) (s : State) : Answer :=
  receiveFrame (headerBytes a s0 s1 f r n data.length ++ data ++ [c]) s

end Sys2Proof.Machine
end

