-- ==== Sys2Proof/Machine/Lrc.lean ====
section
/-! DEFINITION. The Checksum Engine: LRC.COMPUTE and LRC.VERIFY (40_lrc.md). -/

namespace Sys2Proof.Machine

/-- `LRC.COMPUTE` (40_lrc.md R71). MATCH holds no value afterwards. -/
def execLrcCompute (s : State) : Answer :=
  .next (succeed { s with
    lrcg := { lrc := lrc (bufBytes s), lrcV := true, mat := false, matV := false } })

/-- `LRC.VERIFY` (40_lrc.md R72). A mismatch is a result, not a failure. -/
def execLrcVerify (s : State) : Answer :=
  .next (succeed { s with
    lrcg := { lrc := lrc (bufBytes s), lrcV := true,
              mat := matchFlag (lrc (bufBytes s)) (operandByte s .claim), matV := true } })

end Sys2Proof.Machine
end

