-- ==== Sys2Proof/Machine/Reserved.lean ====
section
/-! DEFINITION. The reserved operation codes (30_encoding.md R60). -/

namespace Sys2Proof.Machine

/-- A reserved code: `ST_BADOP`, `C_OP`, no group touched, no event (30_encoding.md R60). -/
def badOp (s : State) : Answer := .next (raise .none .badOp .op s)

/-- `OP` = 0. -/
def execReserved0 (s : State) : Answer := badOp s

/-- `OP` = 6. -/
def execReserved6 (s : State) : Answer := badOp s

/-- `OP` = 7. -/
def execReserved7 (s : State) : Answer := badOp s

end Sys2Proof.Machine
end

