-- ==== Sys2Proof/Machine/Dispatch.lean ====
section
/-! DEFINITION. One arm per row of the opcode table. -/

namespace Sys2Proof.Machine

def exec (i : Instr) (s : State) : Host.Outcome State Fault Refusal :=
  match i with
  | .lrcCompute => Sys2Proof.Machine.execLrcCompute s
  | .lrcVerify => Sys2Proof.Machine.execLrcVerify s
  | .frmDecode => Sys2Proof.Machine.execFrmDecode s
  | .frmBuild => Sys2Proof.Machine.execFrmBuild s
  | .frmWrcmd => Sys2Proof.Machine.execFrmWrcmd s
  | .reserved0 => Sys2Proof.Machine.execReserved0 s
  | .reserved6 => Sys2Proof.Machine.execReserved6 s
  | .reserved7 => Sys2Proof.Machine.execReserved7 s
  | .frameWriteCommand a r v c => Sys2Proof.Machine.execFrameWriteCommand a r v c s
  | .frameGeneral a s0 s1 f r n data c => Sys2Proof.Machine.execFrameGeneral a s0 s1 f r n data c s

end Sys2Proof.Machine
end

