-- ==== Sys2Proof/Machine/HostSteps.lean ====
section
/-! DEFINITION. What each host step does (10_state.md R13, R17, R28; 70_reset_and_hazards.md R144). -/

namespace Sys2Proof.Machine

/-- The element exists: its index is below its buffer's capacity (10_state.md R13, R20, R22). -/
def regExists (cfg : Config) : RegName → Bool
  | .rx i => decide (i < cfg.rxMax)
  | .buf i => decide (i < cfg.bufMax)
  | .addr i => decide (i < cfg.addrMax)
  | .hAddr i => decide (i < 6)
  | .hRsvd i => decide (i < 2)
  | .dseg i => decide (i < 65535)
  | .tx i => decide (i < cfg.txMax)
  | _ => true

/-- The largest value a host write to a register can carry: its width, or the capacity a length counts
(10_state.md R13). A result register takes any value, since the write has no effect (R28). -/
def writeLimit (cfg : Config) : RegName → Option Nat
  | .op => some 7
  | .rx _ => some 255
  | .buf _ => some 255
  | .addr _ => some 255
  | .rxLen => some cfg.rxMax
  | .bLen => some cfg.bufMax
  | .aLen => some cfg.addrMax
  | .claim => some 255
  | .fn => some 255
  | .reg => some 255
  | .cnt => some 255
  | .val => some 255
  | _ => none

/-- The operand registers after a host write (10_state.md R13). A result register's name changes nothing. -/
def writeOperand (o : Operands) (v : Nat) : RegName → Operands
  | .rx i => { o with rx := writeCell o.rx i (BitVec.ofNat 8 v) }
  | .rxLen => { o with rxLen := v }
  | .buf i => { o with buf := writeCell o.buf i (BitVec.ofNat 8 v) }
  | .bLen => { o with bLen := BitVec.ofNat 16 v }
  | .claim => { o with claim := BitVec.ofNat 8 v }
  | .addr i => { o with addr := writeCell o.addr i (BitVec.ofNat 8 v) }
  | .aLen => { o with aLen := v }
  | .fn => { o with fn := BitVec.ofNat 8 v }
  | .reg => { o with reg := BitVec.ofNat 8 v }
  | .cnt => { o with cnt := BitVec.ofNat 8 v }
  | .val => { o with val := BitVec.ofNat 8 v }
  | _ => o

/-- The bookkeeping of log 10 after a host write. -/
def noteWritten (w : Written) : RegName → Written
  | .rxLen => { w with rxLen := true }
  | .bLen => { w with bLen := true }
  | .aLen => { w with aLen := true }
  | .claim => { w with claim := true }
  | .fn => { w with fn := true }
  | .reg => { w with reg := true }
  | .cnt => { w with cnt := true }
  | .val => { w with val := true }
  | _ => w

/-- The bytes are handed to the decoder and what they decode to is run (10_state.md R17). -/
def issueWord (w : List Byte) (s : State) : Answer :=
  match decode w with
  | .ok i => exec i s
  | .error e => .refused (.undecodable e)

/-- A host write. To `OP` it issues the operation (10_state.md R17); to an operand it stores; to a result
register it has no effect (R28). -/
def hostWrite (r : RegName) (v : Nat) (s : State) : Answer :=
  if !regExists s.cfg r then .fault (.noSuchElement r)
  else if (writeLimit s.cfg r).any (· < v) then .refused (.notExpressible r)
  else if r = .op then issueWord [BitVec.ofNat 8 v] s
  else .next (quiet { s with opd := writeOperand s.opd v r, written := noteWritten s.written r })

/-- A byte register's value under a valid indication. -/
def under (valid : Bool) (v : Nat) : Option Nat := if valid then some v else none

/-- The bytes of `H_ADDR` by index (10_state.md R20). -/
def addrByte (a : Addr6) (i : Nat) : Byte := a.toList.getD i 0

/-- What a host read of a register gives; none where it holds no value (10_state.md R23, 70 R138) or is
not readable. An operand reads as what the host last wrote to it (R13). -/
def regValue (s : State) : RegName → Option Nat
  | .op => none
  | .rx i => some ((readCell s.opd.rx i).getD (freeByte s .rx i)).toNat
  | .rxLen => some s.opd.rxLen
  | .buf i => some ((readCell s.opd.buf i).getD (freeByte s .buf i)).toNat
  | .bLen => some s.opd.bLen.toNat
  | .claim => some (operandByte s .claim).toNat
  | .addr i => some ((readCell s.opd.addr i).getD (freeByte s .addr i)).toNat
  | .aLen => some s.opd.aLen
  | .fn => some (operandByte s .fn).toNat
  | .reg => some (operandByte s .reg).toNat
  | .cnt => some (operandByte s .cnt).toNat
  | .val => some (operandByte s .val).toNat
  | .status => some s.status.code.toNat
  | .cause => some s.cause.code.toNat
  | .lrc => under s.lrcg.lrcV s.lrcg.lrc.toNat
  | .lrcV => some (bit s.lrcg.lrcV)
  | .mat => under s.lrcg.matV (bit s.lrcg.mat)
  | .matV => some (bit s.lrcg.matV)
  | .hV => some (bit s.dec.hV)
  | .hAddr i => under s.dec.hV (addrByte s.dec.hAddr i).toNat
  | .hRsvd i => under s.dec.hV (if i = 0 then s.dec.hRsvd0 else s.dec.hRsvd1).toNat
  | .hFn => under s.dec.hV s.dec.hFn.toNat
  | .hReg => under s.dec.hV s.dec.hReg.toNat
  | .hCnt => under s.dec.hV s.dec.hCnt.toNat
  | .hBc => under s.dec.hV s.dec.hBc.toNat
  | .dseg i =>
    if s.dec.hV && decide (i < s.dec.hBc.toNat) then (readCell s.dec.dseg i).map BitVec.toNat else none
  | .sV => some (bit s.dec.sV)
  | .sPower => under s.dec.sV s.dec.sPower.toNat
  | .sFan => under s.dec.sV s.dec.sFan.toNat
  | .sSetTemp => under s.dec.sV s.dec.sSetTemp.toNat
  | .sSweep => under s.dec.sV s.dec.sSweep.toNat
  | .sMode => under s.dec.sV s.dec.sMode.toNat
  | .sRoom => under s.dec.sV s.dec.sRoom.toNat
  | .tx i => if i < s.txg.txLen then (readCell s.txg.tx i).map BitVec.toNat else none
  | .txLen => some s.txg.txLen

/-- The width of a result register that can be without a value (10_state.md R19 to R22). -/
def resultWidth : RegName → Nat
  | .mat => 1
  | .hBc => 16
  | .sRoom => 16
  | _ => 8

/-- What the next host read of a register without a value gives: a free value of the register's width
(10_state.md R23 "draw any value", 93_implementation_defined.md U9; log 8). -/
def drawnValue (s : State) (r : RegName) : Nat := (Config.unspecifiedRead s.draws).toNat % 2 ^ resultWidth r

/-- A host read of an existing register: no side effect on the block (20_memory.md R39). A register that holds
no value gives a free value of its width, another at each read (log 8). -/
def readRegister (r : RegName) (s : State) : State :=
  match regValue s r with
  | some v => quiet { s with readData := v }
  | none => quiet { s with readData := drawnValue s r, draws := s.draws + 1 }

/-- A host read. `OP` is not readable (10_state.md R17). -/
def hostRead (r : RegName) (s : State) : Answer :=
  if r = .op then .fault .readOfOp
  else if !regExists s.cfg r then .fault (.noSuchElement r)
  else .next (readRegister r s)

/-- One host step. -/
def hostStep : HostStep → State → Answer
  | .issue w, s => issueWord w s
  | .write r v, s => hostWrite r v s
  | .read r, s => hostRead r s
  | .reset, s => .next (resetBlock s)

/-- Take the next host step off the inbox; with none left the block does nothing
(70_reset_and_hazards.md R135). -/
def runInbox (s : State) : Answer :=
  match s.inbox with
  | [] => .next (quiet s)
  | h :: rest => hostStep h { s with inbox := rest }

end Sys2Proof.Machine
end

