-- ==== Sys2Proof/Machine/Step.lean ====
section
/-! DEFINITION. One step of the machine: one host step (10_state.md R17, 70_reset_and_hazards.md R146). -/

namespace Sys2Proof.Machine

/-- One step: the host's next step, or nothing (log 1). -/
def step (s : State) : Host.Outcome State Fault Refusal := runInbox s

/-- `s` with the instruction whose first `nbits` bits are `w` as the next thing the host issues
(logs 12, 20). -/
def State.withFetchWord (s : State) (nbits w : Nat) : State :=
  { s with inbox := .issue (tableBytes nbits w) :: s.inbox }

end Sys2Proof.Machine
end

