-- ==== Sys2Proof/Machine/Derived.lean ====
section
/-! DEFINITION. The scaled temperatures (41_decode.md R92): exact rationals, computed and not stored. -/

namespace Sys2Proof.Machine

/-- `S_SETTEMP / 2` degrees Celsius (41_decode.md R92). -/
def setTemperature (d : DecodeGroup) : ℚ := (d.sSetTemp.toNat : ℚ) / 2

/-- `S_ROOM / 10` degrees Celsius (41_decode.md R92). -/
def roomTemperature (d : DecodeGroup) : ℚ := (d.sRoom.toNat : ℚ) / 10

end Sys2Proof.Machine
end

