-- ==== Sys2Proof/Machine/HostSoftware.lean ====
section
/-! DEFINITION. The host software of 80_host_software.md as pure functions beside the machine: no step of
the machine calls it, and State holds nothing of it (log 17). -/

namespace Sys2Proof.Machine

/-- The hvac mode of a ClimateState (80_host_software.md R156). -/
inductive HvacMode where
  | off
  | cool
  | dry
  | fanOnly
  deriving DecidableEq, Repr

/-- ClimateState (80_host_software.md R156). The two modes shown to the user are their characters. -/
structure Climate where
  hvac    : HvacMode
  target  : ℚ
  current : ℚ
  fan     : List Char
  swing   : List Char
  deriving DecidableEq, Repr

/-- hvac mode out of power and mode (80_host_software.md R151, R172). -/
def hvacOf (power mode : Byte) : HvacMode :=
  if power ≠ 1 then .off
  else if mode = 0 then .fanOnly
  else if mode = 1 then .cool
  else if mode = 2 then .dry
  else .off

/-- The decimal string of a code, the fallback of 80_host_software.md R153 and R154. -/
def decimal (code : Byte) : List Char := Nat.toDigits 10 code.toNat

/-- The word shown for the automatic setting. -/
def autoName : List Char := ['A', 'U', 'T', 'O']

/-- The word shown for a sweeping swing. -/
def sweepName : List Char := ['S', 'W', 'E', 'E', 'P', ' ', 'O', 'N']

/-- Fan mode (80_host_software.md R153): codes 3 to 7 map to their own decimal string. -/
def fanName (code : Byte) : List Char :=
  if code = 10 ∨ code = 255 then autoName else decimal code

/-- Swing mode (80_host_software.md R154): codes 1 to 5 map to their own decimal string. -/
def swingName (code : Byte) : List Char :=
  if code = 0 then sweepName else if code = 8 ∨ code = 255 then autoName else decimal code

/-- The State Interpreter (80_host_software.md R151 to R154). -/
def interpret (d : DecodeGroup) : Climate where
  hvac    := hvacOf d.sPower d.sMode
  target  := setTemperature d
  current := roomTemperature d
  fan     := fanName d.sFan
  swing   := swingName d.sSweep

/-- The host's climate after a decode: telemetry wins, and no result changes nothing
(80_host_software.md R155, R166). -/
def climateAfterDecode (s : State) (c : Climate) : Climate := if s.dec.sV then interpret s.dec else c

/-- What a user asks of the Device Controller (80_host_software.md R157 to R163). -/
inductive Intent where
  | turnOn
  | turnOff
  | setTemperature (t : ℚ)
  | setHvacMode (m : HvacMode)
  | setFanMode (name : List Char)
  | setSwingMode (name : List Char)
  deriving DecidableEq, Repr

/-- What the Device Controller does for an intent, in order: one write command, or the settle interval in
milliseconds (80_host_software.md R163, R164). -/
inductive HostCommand where
  | send (reg val : Byte)
  | settle (ms : Nat)
  deriving DecidableEq, Repr

/-- The nearest integer; at a tie a free choice (80_host_software.md R159, 91_not_in_source.md N13; log 17). -/
def roundNearest (x : ℚ) : Int :=
  let n := ⌊x⌋
  if x - n < 1 / 2 then n
  else if 1 / 2 < x - n then n + 1
  else if Config.tieRoundsUp n then n + 1 else n

/-- An integer as a byte, none where it does not fit (91_not_in_source.md N13, U5). The test is on the integer
alone, also for a temperature (DESIGN CHOICE, log 24). -/
def fitByte (n : Int) : Option Byte :=
  if 0 ≤ n ∧ n ≤ 255 then some (BitVec.ofNat 8 n.toNat) else none

/-- The integer a string of decimal digits spells (log 17). -/
def parseDecimal (name : List Char) : Option Nat :=
  if name.isEmpty then none
  else name.foldl (fun acc c => if c.isDigit then acc.map (· * 10 + (c.toNat - 48)) else none) (some 0)

/-- The fan byte of a name; none is a caller error (80_host_software.md R161, 60_exceptions.md R119). -/
def fanByte (name : List Char) : Option Byte :=
  if name.map Char.toUpper = autoName then some 0x0A
  else (parseDecimal name).bind (fun n => fitByte n)

/-- The swing byte of a name; an unrecognised name is 0 (80_host_software.md R162). -/
def swingByte (name : List Char) : Byte :=
  let u := name.map Char.toUpper
  if u = autoName then 8
  else if u = ['1'] then 1
  else if u = ['2'] then 2
  else if u = ['3'] then 3
  else if u = ['4'] then 4
  else if u = ['5'] then 5
  else 0

/-- The power register and the mode commands (20_memory.md R38, 42_encode.md R111). -/
def sendPower (v : Byte) : HostCommand := .send 0x02 v

/-- The compound transition: mode, settle interval of 300 ms, power on (80_host_software.md R163, R164). -/
def modeSequence (code : Byte) : List HostCommand := [.send 0x08 code, .settle 300, sendPower 1]

/-- The commands of an intent, or none where the host rejects it and sends nothing
(80_host_software.md R158 to R163). A temperature is rejected only if its doubled and rounded value is no byte, so
one just outside R159's 0 to 127.5 that still rounds to a byte is sent (DESIGN CHOICE, log 24). -/
def intentCommands : Intent → Option (List HostCommand)
  | .turnOn => some [sendPower 1]
  | .turnOff => some [sendPower 0]
  | .setTemperature t => (fitByte (roundNearest (2 * t))).map (fun v => [.send 0x05 v])
  | .setHvacMode .off => some [sendPower 0]
  | .setHvacMode .fanOnly => some (modeSequence 0)
  | .setHvacMode .cool => some (modeSequence 1)
  | .setHvacMode .dry => some (modeSequence 2)
  | .setFanMode name => (fanByte name).map (fun v => [.send 0x04 v])
  | .setSwingMode name => some [.send 0x07 (swingByte name)]

/-- The device's address into `ADDR`, character by character, and its length into `ALEN`
(80_host_software.md R150, R157, R171 item (3)). -/
def addressSteps (addr : List Byte) : List HostStep :=
  addr.zipIdx.map (fun x => .write (.addr x.2) x.1.toNat) ++ [.write .aLen addr.length]

/-- Publishing `TX`: the host takes the length and the 32 characters of a write command out
(80_host_software.md R157, 42_encode.md R110, 70_reset_and_hazards.md R140). Where they go is outside
(00_scope.md section 3). -/
def publishSteps : List HostStep := .read .txLen :: (List.range 32).map (fun i => .read (.tx i))

/-- A command as host steps of the block: the device's address, `REG`, `VAL`, `FRM.WRCMD`, then `TX` is published
(80_host_software.md R150, R157). The settle interval is no step of the block (60_exceptions.md R131). -/
def commandSteps (addr : List Byte) : HostCommand → List HostStep
  | .send r v =>
    addressSteps addr ++ [.write .reg r.toNat, .write .val v.toNat, .issue (encode .frmWrcmd)] ++ publishSteps
  | .settle _ => []

/-- An intent as host steps for the device at an address, each frame published before the next is built
(80_host_software.md R163, R168, 70_reset_and_hazards.md R140); none where the host rejects the intent. The steps do not depend on how a build
ended: after a mode command that ends `ST_CALLER` the power command is issued all the same (DESIGN CHOICE, log 25;
91_not_in_source.md N26). -/
def intentSteps (addr : List Byte) (i : Intent) : Option (List HostStep) :=
  (intentCommands i).map (fun cs => cs.flatMap (commandSteps addr))

/-- The text the host publishes once a build has ended: none after a caller error, when no frame is held
(10_state.md R22, 42_encode.md R108). That the host then publishes nothing is a DESIGN CHOICE (log 25). -/
def publishedText (s : State) : Option (List Byte) :=
  if s.txg.txLen = 0 then none else some (readCells (fun _ => 0) s.txg.tx 0 s.txg.txLen)

end Sys2Proof.Machine
end

