-- ==== Sys2Proof/Safety.lean ====
section
/-! DEFINITION. What claims are stated in: the token read position by position, the host's duties, and the
invariants of the machine. -/

namespace Sys2Proof.Machine

/-- `RX[i]` as an operation reads it (10_state.md R14; an unwritten element is a free byte, log 6). -/
def rxElem (s : State) (i : Nat) : Byte := (readCell s.opd.rx i).getD (freeByte s .rx i)

/-- `BUF[i]` as an operation reads it (10_state.md R15). -/
def bufElem (s : State) (i : Nat) : Byte := (readCell s.opd.buf i).getD (freeByte s .buf i)

/-- `BUF[0 .. BLEN-1]`, element by element. -/
def bufSeq (s : State) : List Byte := (List.range s.opd.bLen.toNat).map (bufElem s)

/-- `ADDR[i]` as an operation reads it (10_state.md R16). -/
def addrElem (s : State) (i : Nat) : Byte := (readCell s.opd.addr i).getD (freeByte s .addr i)

/-- The characters `ADDR[0], ..., ADDR[ALEN-1]` that are not in `ADDR_SEP`, in order (42_encode.md R100
line 1). -/
def addrStripped (s : State) : List Byte :=
  ((List.range s.opd.aLen).map (addrElem s)).filter (fun c => decide (c ∉ s.cfg.addrSep))

/-- The address is 12 hex digits once its separators are dropped (42_encode.md R102). -/
def AddressOk (s : State) : Prop := (addrStripped s).length = 12 ∧ ∀ c ∈ addrStripped s, ishex c = true

/-- Address byte `i`, `16*hexval(a[2i]) + hexval(a[2i+1])` (42_encode.md R100 line 4). -/
def addressByte (s : State) (i : Nat) : Byte :=
  BitVec.ofNat 8 (16 * hexval ((addrStripped s).getD (2 * i) 0) + hexval ((addrStripped s).getD (2 * i + 1) 0))

/-- The covered bytes of the frame a build makes (42_encode.md R100 line 5). -/
def frameToBuild (s : State) (fn reg cnt : Byte) (data : List Byte) : List Byte :=
  [addressByte s 0, addressByte s 1, addressByte s 2, addressByte s 3, addressByte s 4, addressByte s 5,
    0, 0, fn, reg, cnt, BitVec.ofNat 8 (data.length % 256), BitVec.ofNat 8 (data.length / 256)] ++ data

/-- `[0x7B] ++ hexseq(F ++ [lrc F]) ++ [0x7D]` (42_encode.md R100 lines 6 and 7). -/
def frameText (f : List Byte) : List Byte := [0x7B] ++ (f ++ [lrc f]).flatMap hex2 ++ [0x7D]

/-- `T[p] = RX[p+1]` (20_memory.md R31). -/
def pos (s : State) (p : Nat) : Byte := rxElem s (p + 1)

/-- Frame byte `k`, spelled by positions `2k` and `2k+1` (20_memory.md R32). -/
def posByte (s : State) (k : Nat) : Byte :=
  BitVec.ofNat 8 (16 * hexval (pos s (2 * k)) + hexval (pos s (2 * k + 1)))

/-- The byte count of the token, `low + 256*high` (41_decode.md R83). -/
def tokenCount (s : State) : Nat := (posByte s 11).toNat + 256 * (posByte s 12).toNat

/-- Frame bytes `a` to `a+n-1`. -/
def posBytes (s : State) (a n : Nat) : List Byte := (List.range n).map (fun i => posByte s (a + i))

/-- Both delimiters are there (41_decode.md R81). -/
def Delimited (s : State) : Prop :=
  s.opd.rxLen ≠ 0 ∧ rxElem s 0 = openBrace ∧ rxElem s (s.opd.rxLen - 1) = closeBrace

/-- The token passes lines 1 to 5 of 41_decode.md R80: its byte count can be read. -/
def CountReadable (s : State) : Prop :=
  Delimited s ∧ 30 ≤ s.opd.rxLen - 2 ∧ ∀ p, 22 ≤ p → p < 26 → ishex (pos s p) = true

/-- Lines 1 to 9: the text is long enough for its byte count, and exactly so under policy `reject`. -/
def SpanOk (s : State) : Prop :=
  CountReadable s ∧ 28 + 2 * tokenCount s ≤ s.opd.rxLen - 2
    ∧ (s.cfg.trailing = .reject → 28 + 2 * tokenCount s = s.opd.rxLen - 2)

/-- Lines 1 to 10: a well-formed frame, whose checksum is not yet looked at. -/
def WellFormedToken (s : State) : Prop :=
  SpanOk s ∧ ∀ p, p < 28 + 2 * tokenCount s → ishex (pos s p) = true

/-- Lines 1 to 12: a well-formed frame whose checksum matches (41_decode.md R88). -/
def VerifiedToken (s : State) : Prop :=
  WellFormedToken s ∧ lrc (posBytes s 0 (13 + tokenCount s)) = posByte s (13 + tokenCount s)

/-- The header registers hold the token's own bytes (41_decode.md R89). -/
def HeaderIs (s : State) (d : DecodeGroup) : Prop :=
  d.hV = true
    ∧ d.hAddr = ⟨posByte s 0, posByte s 1, posByte s 2, posByte s 3, posByte s 4, posByte s 5⟩
    ∧ d.hRsvd0 = posByte s 6 ∧ d.hRsvd1 = posByte s 7
    ∧ d.hFn = posByte s 8 ∧ d.hReg = posByte s 9 ∧ d.hCnt = posByte s 10 ∧ d.hBc.toNat = tokenCount s
    ∧ ∀ j, j < tokenCount s → readCell d.dseg j = some (posByte s (13 + j))

/-- The snapshot registers hold the data bytes at the indices of `SNAP_IDX` (41_decode.md R91). -/
def SnapshotIs (s : State) (d : DecodeGroup) : Prop :=
  d.sV = true
    ∧ d.sPower = posByte s (13 + s.cfg.snapIdx.power)
    ∧ d.sFan = posByte s (13 + s.cfg.snapIdx.fan)
    ∧ d.sSetTemp = posByte s (13 + s.cfg.snapIdx.setTemp)
    ∧ d.sSweep = posByte s (13 + s.cfg.snapIdx.sweep)
    ∧ d.sMode = posByte s (13 + s.cfg.snapIdx.mode)
    ∧ d.sRoom.toNat = (posByte s (13 + s.cfg.snapIdx.roomLo)).toNat
        + 256 * (posByte s (13 + s.cfg.snapIdx.roomHi)).toNat

/-- `FRM.DECODE` ends with this outcome and these events, and changes nothing outside the decode group
(60_exceptions.md R121, R122, R124). -/
def DecodeEnds (s t : State) (st : Status) (c : Cause) (csumEv malfEv : Bool) : Prop :=
  exec .frmDecode s = .next t
    ∧ t = { s with dec := t.dec, status := st, cause := c, evCsum := csumEv, evMalf := malfEv }

/-- `FRM.DECODE` fails: it ends so, and no header and no snapshot is valid (60_exceptions.md R124). -/
def DecodeFails (s : State) (st : Status) (c : Cause) (csumEv malfEv : Bool) : Prop :=
  ∃ t, DecodeEnds s t st c csumEv malfEv ∧ t.dec.hV = false ∧ t.dec.sV = false

/-- The state after `s` with another transmit group, this outcome and no event. -/
def builtState (s : State) (g : TxGroup) (st : Status) (c : Cause) : State :=
  { s with txg := g, status := st, cause := c, evCsum := false, evMalf := false }

/-- The host has written the elements of a buffer below a length since reset. -/
def bufferWritten (m : Memory) (n : Nat) : Bool := (List.range n).all (fun i => (readCell m i).isSome)

/-- 70_reset_and_hazards.md R137, instruction by instruction, the length register with its buffer. A reserved
code and a frame row read none. -/
def operandsWritten (s : State) : Instr → Bool
  | .lrcCompute => s.written.bLen && bufferWritten s.opd.buf s.opd.bLen.toNat
  | .lrcVerify => s.written.bLen && bufferWritten s.opd.buf s.opd.bLen.toNat && s.written.claim
  | .frmDecode => s.written.rxLen && bufferWritten s.opd.rx s.opd.rxLen
  | .frmBuild =>
    s.written.aLen && bufferWritten s.opd.addr s.opd.aLen
      && s.written.bLen && bufferWritten s.opd.buf s.opd.bLen.toNat
      && s.written.fn && s.written.reg && s.written.cnt
  | .frmWrcmd => s.written.aLen && bufferWritten s.opd.addr s.opd.aLen && s.written.reg && s.written.val
  | .reserved0 => true
  | .reserved6 => true
  | .reserved7 => true
  | .frameWriteCommand _ _ _ _ => true
  | .frameGeneral _ _ _ _ _ _ _ _ => true

/-- The instruction the next host step issues, if it issues one (10_state.md R17). -/
def nextInstr (s : State) : Option Instr :=
  match s.inbox with
  | .issue w :: _ => (decode w).toOption
  | .write .op v :: _ => (decode [BitVec.ofNat 8 v]).toOption
  | _ => none

/-- The next host step is a fault of the host program in the sense of 70_reset_and_hazards.md R137 and
93_implementation_defined.md U10: it issues an operation that reads an operand nothing has written since
reset. The block itself runs on unspecified bytes (R137; log 4, log 6). -/
def issuesUnwritten (s : State) : Bool := (nextInstr s).any (fun i => !operandsWritten s i)

/-- The register exists and, where 70_reset_and_hazards.md R138 names a valid indication, has it, and `v` is the
number it reads as (10_state.md R13, R18 to R23). `STATUS` and `CAUSE` read as their codes (60_exceptions.md
R115, R116). -/
def Shows (s : State) (v : Nat) : RegName → Prop
  | .op => False
  | .rx i => i < s.cfg.rxMax ∧ v = (rxElem s i).toNat
  | .rxLen => v = s.opd.rxLen
  | .buf i => i < s.cfg.bufMax ∧ v = (bufElem s i).toNat
  | .bLen => v = s.opd.bLen.toNat
  | .claim => v = (operandByte s .claim).toNat
  | .addr i => i < s.cfg.addrMax ∧ v = (addrElem s i).toNat
  | .aLen => v = s.opd.aLen
  | .fn => v = (operandByte s .fn).toNat
  | .reg => v = (operandByte s .reg).toNat
  | .cnt => v = (operandByte s .cnt).toNat
  | .val => v = (operandByte s .val).toNat
  | .status => v = s.status.code.toNat
  | .cause => v = s.cause.code.toNat
  | .lrc => s.lrcg.lrcV = true ∧ v = s.lrcg.lrc.toNat
  | .lrcV => v = s.lrcg.lrcV.toNat
  | .mat => s.lrcg.matV = true ∧ v = s.lrcg.mat.toNat
  | .matV => v = s.lrcg.matV.toNat
  | .hV => v = s.dec.hV.toNat
  | .hAddr i =>
    s.dec.hV = true ∧ ((i = 0 ∧ v = s.dec.hAddr.a0.toNat) ∨ (i = 1 ∧ v = s.dec.hAddr.a1.toNat)
      ∨ (i = 2 ∧ v = s.dec.hAddr.a2.toNat) ∨ (i = 3 ∧ v = s.dec.hAddr.a3.toNat)
      ∨ (i = 4 ∧ v = s.dec.hAddr.a4.toNat) ∨ (i = 5 ∧ v = s.dec.hAddr.a5.toNat))
  | .hRsvd i =>
    s.dec.hV = true ∧ ((i = 0 ∧ v = s.dec.hRsvd0.toNat) ∨ (i = 1 ∧ v = s.dec.hRsvd1.toNat))
  | .hFn => s.dec.hV = true ∧ v = s.dec.hFn.toNat
  | .hReg => s.dec.hV = true ∧ v = s.dec.hReg.toNat
  | .hCnt => s.dec.hV = true ∧ v = s.dec.hCnt.toNat
  | .hBc => s.dec.hV = true ∧ v = s.dec.hBc.toNat
  | .dseg i => s.dec.hV = true ∧ i < s.dec.hBc.toNat ∧ (readCell s.dec.dseg i).map BitVec.toNat = some v
  | .sV => v = s.dec.sV.toNat
  | .sPower => s.dec.sV = true ∧ v = s.dec.sPower.toNat
  | .sFan => s.dec.sV = true ∧ v = s.dec.sFan.toNat
  | .sSetTemp => s.dec.sV = true ∧ v = s.dec.sSetTemp.toNat
  | .sSweep => s.dec.sV = true ∧ v = s.dec.sSweep.toNat
  | .sMode => s.dec.sV = true ∧ v = s.dec.sMode.toNat
  | .sRoom => s.dec.sV = true ∧ v = s.dec.sRoom.toNat
  | .tx i => i < s.cfg.txMax ∧ i < s.txg.txLen ∧ (readCell s.txg.tx i).map BitVec.toNat = some v
  | .txLen => v = s.txg.txLen

/-- A read under its valid indication (70_reset_and_hazards.md R138). -/
def readIsValid (s : State) (r : RegName) : Bool := (regValue s r).isSome

/-- The next host step reads an existing register that holds no value: "a fault of the host program" (10_state.md
R23, 70_reset_and_hazards.md R138, 93_implementation_defined.md U9). The read gives a free value (log 8). -/
def readsNoValue (s : State) : Bool :=
  match s.inbox with
  | .read r :: _ => r != .op && regExists s.cfg r && !readIsValid s r
  | _ => false

/-- The next host step breaks a duty of 70_reset_and_hazards.md R137 or R138. -/
def hostAtFault (s : State) : Bool := issuesUnwritten s || readsNoValue s

/-- A buffer element at or above its buffer's capacity (10_state.md R13, R20, R22). -/
def BeyondCapacity (c : Config) : RegName → Prop
  | .rx i => c.rxMax ≤ i
  | .buf i => c.bufMax ≤ i
  | .addr i => c.addrMax ≤ i
  | .hAddr i => 6 ≤ i
  | .hRsvd i => 2 ≤ i
  | .dseg i => 65535 ≤ i
  | .tx i => c.txMax ≤ i
  | _ => False

/-- A register or an existing element that is one byte wide and that the host writes (10_state.md R13). -/
def ByteOperand (c : Config) : RegName → Prop
  | .rx i => i < c.rxMax
  | .buf i => i < c.bufMax
  | .addr i => i < c.addrMax
  | .claim => True
  | .fn => True
  | .reg => True
  | .cnt => True
  | .val => True
  | _ => False

/-- The name of an 8-bit operand register. -/
def byteRegName : OperandReg → RegName
  | .claim => .claim
  | .fn => .fn
  | .reg => .reg
  | .cnt => .cnt
  | .val => .val

/-- The registers the block writes (10_state.md section 3). -/
def isResultReg : RegName → Bool
  | .op => false
  | .rx _ => false
  | .rxLen => false
  | .buf _ => false
  | .bLen => false
  | .claim => false
  | .addr _ => false
  | .aLen => false
  | .fn => false
  | .reg => false
  | .cnt => false
  | .val => false
  | _ => true

/-- The registers that hold no value without `H_V` (10_state.md R23). -/
def isHeaderReg : RegName → Bool
  | .hAddr _ => true
  | .hRsvd _ => true
  | .hFn => true
  | .hReg => true
  | .hCnt => true
  | .hBc => true
  | .dseg _ => true
  | _ => false

/-- The registers that hold no value without `S_V` (10_state.md R23). -/
def isSnapReg : RegName → Bool
  | .sPower => true
  | .sFan => true
  | .sSetTemp => true
  | .sSweep => true
  | .sMode => true
  | .sRoom => true
  | _ => false

/-- The eight operation words, as against the two frame rows. -/
def isOperation : Instr → Bool
  | .lrcCompute => true
  | .lrcVerify => true
  | .frmDecode => true
  | .frmBuild => true
  | .frmWrcmd => true
  | .reserved0 => true
  | .reserved6 => true
  | .reserved7 => true
  | .frameWriteCommand _ _ _ _ => false
  | .frameGeneral _ _ _ _ _ _ _ _ => false

/-- A run of `n` steps without a fault or a refusal. -/
def SafeRun (n : Nat) (s : State) : Prop := ∃ t, Sys2Proof.core.run n s = .next t

/-- Every buffer is in canonical form. -/
def MemoriesCanonical (s : State) : Prop :=
  Memory.wf s.opd.rx ∧ Memory.wf s.opd.buf ∧ Memory.wf s.opd.addr ∧ Memory.wf s.dec.dseg ∧ Memory.wf s.txg.tx

/-- Every cell of a buffer lies below its capacity. -/
def Below (capacity : Nat) (m : Memory) : Prop := ∀ x ∈ m, x.1 < capacity

/-- No operand is longer than its buffer (10_state.md R14 to R16, R22). -/
def CapacityRespected (s : State) : Prop :=
  s.opd.rxLen ≤ s.cfg.rxMax ∧ s.opd.bLen.toNat ≤ s.cfg.bufMax ∧ s.opd.aLen ≤ s.cfg.addrMax
    ∧ s.txg.txLen ≤ s.cfg.txMax ∧ Below s.cfg.rxMax s.opd.rx ∧ Below s.cfg.bufMax s.opd.buf
    ∧ Below s.cfg.addrMax s.opd.addr ∧ Below s.cfg.txMax s.txg.tx ∧ Below 65535 s.dec.dseg

/-- `STATUS` and `CAUSE` are a pair of the table of 60_exceptions.md R116. -/
def OutcomeLegal (s : State) : Prop :=
  (s.status = .idle ∧ s.cause = .none) ∨ s.status = s.cause.status

/-- The bytes the data-segment buffer holds below `H_BC`. -/
def dsegBytes (d : DecodeGroup) : List Byte := readCells (fun _ => 0) d.dseg 0 d.hBc.toNat

/-- The decode group means what 10_state.md R20, R21, R23 and R27 say: without `H_V` it holds nothing;
with it `DSEG` holds exactly `H_BC` bytes and the snapshot is there iff the data are long enough; the
snapshot is the data segment's own bytes. -/
def DecodeConsistent (s : State) : Prop :=
  (s.dec.hV = false → s.dec = DecodeGroup.empty)
    ∧ (s.dec.hV = true → s.dec.dseg = cellsFrom 0 (dsegBytes s.dec))
    ∧ (s.dec.hV = true → (s.dec.sV = true ↔ maxSnapIdx s.cfg.snapIdx < s.dec.hBc.toNat))
    ∧ (s.dec.sV = false → s.dec = dropSnapshot s.dec)
    ∧ (s.dec.sV = true →
        snapOf s.cfg.snapIdx (dsegBytes s.dec)
          = ⟨s.dec.sPower, s.dec.sFan, s.dec.sSetTemp, s.dec.sSweep, s.dec.sMode, s.dec.sRoom⟩)

/-- A text that is one frame: two delimiters around the digits of `14 + bc` bytes that sum to 0 modulo 256
(30_encoding.md R51, 20_memory.md R36, 40_lrc.md R73). -/
def IsFrameToken (tok : List Byte) : Prop :=
  ∃ f : List Byte, tok = tokenOf f
    ∧ f.length = 14 + (le16 (f.getD 11 0) (f.getD 12 0)).toNat
    ∧ byteSum f % 256 = 0

/-- The characters `TX[0 .. TXLEN-1]`. -/
def txBytes (g : TxGroup) : List Byte := readCells (fun _ => 0) g.tx 0 g.txLen

/-- `TX` holds exactly `TXLEN` characters, and they are none or one frame (10_state.md R22, R23). -/
def TransmitConsistent (s : State) : Prop :=
  s.txg.tx = cellsFrom 0 (txBytes s.txg) ∧ (s.txg.txLen ≠ 0 → IsFrameToken (txBytes s.txg))

/-- The LRC group: without its valid flag a register is at its empty value, and MATCH is never valid
without LRC (10_state.md R19). -/
def LrcConsistent (s : State) : Prop :=
  (s.lrcg.lrcV = false → s.lrcg = LrcGroup.empty)
    ∧ (s.lrcg.matV = false → s.lrcg.mat = false)
    ∧ (s.lrcg.matV = true → s.lrcg.lrcV = true)

/-- Everything true after reset and after every step from a state where it is true. -/
structure Inv (s : State) : Prop where
  config    : configOk s.cfg = true
  canonical : MemoriesCanonical s
  capacity  : CapacityRespected s
  outcome   : OutcomeLegal s
  decode    : DecodeConsistent s
  transmit  : TransmitConsistent s
  lrcGroup  : LrcConsistent s

end Sys2Proof.Machine
end

