-- ==== Sys2Proof/Certificates/Slice0/Obligations.lean ====
section
/-! DEFINITION. The statements for the provers. -/

open Sys2Proof Sys2Proof.Machine

/-- Reading back what the encoder writes gives the instruction, every operand at every value
(30_encoding.md R50, R57, 20_memory.md R36). -/
def Obligations.DecodeOfEncode : Prop :=
  ∀ i : Instr, i.wellFormed = true → decode (encode i) = .ok i

/-- Bytes that decode are the encoding of what they decode to, so no two byte sequences share a meaning. -/
def Obligations.EncodeOfDecode : Prop :=
  ∀ (bs : List Byte) (i : Instr), decode bs = .ok i → encode i = bs ∧ i.wellFormed = true

/-- The codes of 30_encoding.md R50, the turn-on frame of 95_test_vectors.md V-E1, and the bytes that are
no value of the 3-bit `OP` (log 12). -/
def Obligations.OperationWordsDecode : Prop :=
  decode [1] = .ok .lrcCompute ∧ decode [2] = .ok .lrcVerify ∧ decode [3] = .ok .frmDecode
    ∧ decode [4] = .ok .frmBuild ∧ decode [5] = .ok .frmWrcmd ∧ decode [0] = .ok .reserved0
    ∧ decode [6] = .ok .reserved6 ∧ decode [7] = .ok .reserved7
    ∧ decode [0x60, 0x01, 0x94, 0x65, 0x7C, 0x39, 0x00, 0x00, 0x01, 0x02, 0x01, 0x01, 0x00, 0x01, 0xEB]
        = .ok (.frameWriteCommand ⟨0x60, 0x01, 0x94, 0x65, 0x7C, 0x39⟩ 0x02 0x01 0xEB)
    ∧ ∀ b : Byte, 8 ≤ b.toNat → decode [b] = .error .opTooWide

/-- A step runs what the issued bytes decode to, on the state with that host step taken off (log 1). -/
def Obligations.StepRunsTheDecodedInstruction : Prop :=
  ∀ (s : State) (w : List Byte) (rest : List HostStep) (i : Instr),
    s.inbox = .issue w :: rest → decode w = .ok i → step s = exec i { s with inbox := rest }

/-- Writing a value to `OP` issues the operation of that code, in one step (10_state.md R17); each of the
eight values names an operation word. -/
def Obligations.WritingOpIssuesTheOperation : Prop :=
  ∀ (s : State) (v : Nat) (rest : List HostStep), s.inbox = .write .op v :: rest → v < 8 →
    ∃ i, decode [BitVec.ofNat 8 v] = .ok i ∧ isOperation i = true ∧ step s = exec i { s with inbox := rest }

/-- The checksum is the source's formula on the sum of the bytes (40_lrc.md R70). -/
def Obligations.ChecksumIsTheFormula : Prop :=
  ∀ bs : List Byte,
    (lrc bs).toNat = (0xFF - (bs.map BitVec.toNat).sum % 256 + 1) % 256 ∧ (lrc bs).toNat ≤ 255

/-- The bytes and their checksum sum to 0 modulo 256, and only that byte does it (40_lrc.md R73). -/
def Obligations.ChecksumMakesTheSumZero : Prop :=
  ∀ bs : List Byte,
    ((bs.map BitVec.toNat).sum + (lrc bs).toNat) % 256 = 0
      ∧ ∀ c : Byte, ((bs.map BitVec.toNat).sum + c.toNat) % 256 = 0 ↔ c = lrc bs

/-- 40_lrc.md R76 (i) to (vi): negation of the sum, zero for a sum that is a multiple of 256, the wrapping
accumulator, concatenation, order and zero bytes, one changed byte. -/
def Obligations.ChecksumLaws : Prop :=
  (∀ bs : List Byte, (lrc bs).toNat = (256 - (bs.map BitVec.toNat).sum % 256) % 256)
    ∧ (∀ bs : List Byte, (bs.map BitVec.toNat).sum % 256 = 0 → lrc bs = 0)
    ∧ (∀ bs : List Byte, lrc bs = -(bs.foldl (· + ·) 0))
    ∧ (∀ bs cs : List Byte, lrc (bs ++ cs) = lrc bs + lrc cs)
    ∧ (∀ bs cs : List Byte, bs.Perm cs → lrc bs = lrc cs)
    ∧ (∀ bs : List Byte, lrc (bs.filter (· ≠ 0)) = lrc bs)
    ∧ ∀ (bs : List Byte) (i : Nat) (b : Byte), i < bs.length → b ≠ bs.getD i 0 → lrc (bs.set i b) ≠ lrc bs

/-- 40_lrc.md R74: on two hex digits the text form of verify is the byte comparison. On anything else it has no
value (93_implementation_defined.md U1; log 23), and R74's comparison of characters fails. -/
def Obligations.TextVerifyIsByteVerify : Prop :=
  ∀ (bs : List Byte) (c0 c1 : Byte),
    (ishex c0 = true → ishex c1 = true →
        verifyText bs c0 c1 = some (decide ((lrc bs).toNat = 16 * hexval c0 + hexval c1)))
      ∧ (¬ (ishex c0 = true ∧ ishex c1 = true) → verifyText bs c0 c1 = none ∧ charsMatch bs c0 c1 = false)

/-- `LRC.COMPUTE` (40_lrc.md R71): its code, the result, the flags, the outcome, no event, and everything else
unchanged. -/
def Obligations.ComputeResult : Prop :=
  decode [0b001] = .ok .lrcCompute
    ∧ ∀ s : State, ∃ t : State, exec .lrcCompute s = .next t
      ∧ t = { s with lrcg := t.lrcg, status := .ok, cause := .none, evCsum := false, evMalf := false }
      ∧ t.lrcg.lrc = lrc (bufSeq s) ∧ t.lrcg.lrcV = true ∧ t.lrcg.matV = false

/-- `LRC.VERIFY` (40_lrc.md R72): its code, the result and the match, and the same outcome whether or not it
matches; everything else unchanged. -/
def Obligations.VerifyResult : Prop :=
  decode [0b010] = .ok .lrcVerify
    ∧ ∀ s : State, exec .lrcVerify s = .next { s with
      lrcg := { lrc := lrc (bufSeq s), lrcV := true
                mat := decide (lrc (bufSeq s) = operandByte s .claim), matV := true }
      status := .ok, cause := .none, evCsum := false, evMalf := false }

/-- 40_lrc.md R75: compute, write what was computed to `CLAIM`, verify: it matches. -/
def Obligations.ComputeThenVerifyMatches : Prop :=
  ∀ s : State, ∃ t u v : State, exec .lrcCompute s = .next t
    ∧ hostWrite .claim t.lrcg.lrc.toNat t = .next u
    ∧ exec .lrcVerify u = .next v
    ∧ v.lrcg.matV = true ∧ v.lrcg.mat = true

/-- 41_decode.md R81: a missing brace at either end, the opening one first. -/
def Obligations.DecodeRejectsMissingDelimiter : Prop :=
  ∀ s : State,
    (s.opd.rxLen = 0 ∨ rxElem s 0 ≠ 0x7B → DecodeFails s .malformed .delimOpen false true)
      ∧ (s.opd.rxLen ≠ 0 → rxElem s 0 = 0x7B → rxElem s (s.opd.rxLen - 1) ≠ 0x7D →
        DecodeFails s .malformed .delimClose false true)

/-- 41_decode.md R82: fewer than 30 characters between the braces, whatever they are; with 30 or more this
test passes. -/
def Obligations.DecodeRejectsShortText : Prop :=
  ∀ s : State, Delimited s →
    (s.opd.rxLen - 2 < 30 → DecodeFails s .malformed .short false true)
      ∧ (30 ≤ s.opd.rxLen - 2 → ∃ t : State, exec .frmDecode s = .next t ∧ t.cause ≠ .short)

/-- 41_decode.md R83: a non-hex character in the byte count. -/
def Obligations.DecodeRejectsNonHexCount : Prop :=
  ∀ (s : State) (p : Nat), Delimited s → 30 ≤ s.opd.rxLen - 2 → 22 ≤ p → p < 26 → ishex (pos s p) = false →
    DecodeFails s .malformed .nonHex false true

/-- 41_decode.md R84: a byte count that runs past the end of the text. -/
def Obligations.DecodeRejectsOverrun : Prop :=
  ∀ s : State, CountReadable s → s.opd.rxLen - 2 < 28 + 2 * tokenCount s →
    DecodeFails s .malformed .overrun false true

/-- 41_decode.md R85: characters after the checksum, under policy `reject`. -/
def Obligations.DecodeRejectsTrailingText : Prop :=
  ∀ s : State, CountReadable s → s.cfg.trailing = .reject → 28 + 2 * tokenCount s < s.opd.rxLen - 2 →
    DecodeFails s .malformed .trailing false true

/-- 41_decode.md R86: a non-hex character anywhere up to the end of the checksum, whatever the checksum. -/
def Obligations.DecodeRejectsNonHexBody : Prop :=
  ∀ (s : State) (p : Nat), SpanOk s → p < 28 + 2 * tokenCount s → ishex (pos s p) = false →
    DecodeFails s .malformed .nonHex false true

/-- 41_decode.md R88: a well-formed frame whose checksum does not match; nothing of it is kept. Summing every
byte and testing for zero is the same test. -/
def Obligations.DecodeRejectsWrongChecksum : Prop :=
  ∀ s : State, WellFormedToken s →
    (lrc (posBytes s 0 (13 + tokenCount s)) ≠ posByte s (13 + tokenCount s) →
        DecodeFails s .checksum .csum true false)
      ∧ (lrc (posBytes s 0 (13 + tokenCount s)) = posByte s (13 + tokenCount s)
        ↔ ((posBytes s 0 (14 + tokenCount s)).map BitVec.toNat).sum % 256 = 0)

/-- 41_decode.md R90 (with R89): a verified frame too short for the snapshot leaves its header alone valid. -/
def Obligations.DecodeWithoutSnapshot : Prop :=
  ∀ s : State, VerifiedToken s → tokenCount s ≤ maxSnapIdx s.cfg.snapIdx →
    ∃ t : State, DecodeEnds s t .noSnap .noSnap false true ∧ HeaderIs s t.dec ∧ t.dec.sV = false

/-- 41_decode.md R91 (with R89, R93): a verified frame long enough leaves header and snapshot, each field the
data byte at its index, and no event. -/
def Obligations.DecodeWithSnapshot : Prop :=
  ∀ s : State, VerifiedToken s → maxSnapIdx s.cfg.snapIdx < tokenCount s →
    ∃ t : State, DecodeEnds s t .ok .none false false ∧ HeaderIs s t.dec ∧ SnapshotIs s t.dec

/-- 41_decode.md R95, 10_state.md R27: decode always ends in one of four outcomes, the flags say which,
and the header is valid only of a verified token. -/
def Obligations.DecodeIsTotal : Prop :=
  ∀ s : State, ∃ t : State, exec .frmDecode s = .next t
    ∧ (t.status = .ok ∨ t.status = .noSnap ∨ t.status = .malformed ∨ t.status = .checksum)
    ∧ (t.dec.sV = true ↔ t.status = .ok)
    ∧ (t.dec.hV = true ↔ t.status = .ok ∨ t.status = .noSnap)
    ∧ (t.dec.hV = true ↔ VerifiedToken s)

/-- 30_encoding.md R66, 41_decode.md R87: a token in upper case decodes to the same results. -/
def Obligations.DecodeIgnoresLetterCase : Prop :=
  ∀ s u : State, u.cfg = s.cfg → u.opd.rxLen = s.opd.rxLen →
    (∀ i, i < s.opd.rxLen → rxElem u i = upper (rxElem s i)) →
    ∃ t v : State, exec .frmDecode s = .next t ∧ exec .frmDecode u = .next v
      ∧ v.dec = t.dec ∧ v.status = t.status ∧ v.cause = t.cause

/-- 41_decode.md R85: under policy `ignore`, characters after the checksum are never read. -/
def Obligations.DecodeIgnoresTrailingText : Prop :=
  ∀ s u : State, s.cfg.trailing = .ignore → u.cfg = s.cfg → SpanOk s → SpanOk u →
    (∀ p, p < 28 + 2 * tokenCount s → pos u p = pos s p) →
    ∃ t v : State, exec .frmDecode s = .next t ∧ exec .frmDecode u = .next v
      ∧ v.dec = t.dec ∧ v.status = t.status ∧ v.cause = t.cause

/-- 41_decode.md R85: on tokens of exact length the two trailing policies agree. -/
def Obligations.TrailingPoliciesAgreeOnExactTokens : Prop :=
  ∀ s : State, CountReadable s → 28 + 2 * tokenCount s = s.opd.rxLen - 2 →
    ∃ t : State, exec .frmDecode { s with cfg := { s.cfg with trailing := .ignore } } = .next t
      ∧ exec .frmDecode { s with cfg := { s.cfg with trailing := .reject } }
          = .next { t with cfg := { t.cfg with trailing := .reject } }

/-- 40_lrc.md R78: a verified token with one hex character of the data segment altered in value fails its
checksum. -/
def Obligations.DecodeSeesOneAlteredDataCharacter : Prop :=
  ∀ (s : State) (p : Nat) (c : Byte), VerifiedToken s → 26 ≤ p → p < 26 + 2 * tokenCount s →
    ishex c = true → hexval c ≠ hexval (pos s p) →
    DecodeFails { s with opd := { s.opd with rx := writeCell s.opd.rx (p + 1) c } } .checksum .csum true false

/-- `FRM.BUILD` (42_encode.md R100): its code; the caller error of a bad address, then of a frame that does not
fit; otherwise the token and its length. Everything else is unchanged. -/
def Obligations.BuildResult : Prop :=
  decode [0b100] = .ok .frmBuild
    ∧ ∀ s : State, ∃ g : TxGroup,
      (¬ AddressOk s → exec .frmBuild s = .next (builtState s g .caller .addr) ∧ g.txLen = 0)
      ∧ (AddressOk s → s.cfg.txMax < 30 + 2 * s.opd.bLen.toNat →
        exec .frmBuild s = .next (builtState s g .caller .len) ∧ g.txLen = 0)
      ∧ (AddressOk s → 30 + 2 * s.opd.bLen.toNat ≤ s.cfg.txMax →
        exec .frmBuild s = .next (builtState s g .ok .none)
          ∧ g.txLen = 30 + 2 * s.opd.bLen.toNat
          ∧ txBytes g = frameText
              (frameToBuild s (operandByte s .fn) (operandByte s .reg) (operandByte s .cnt) (bufSeq s)))



/-- `FRM.WRCMD` (42_encode.md R110): its code; the caller error of a bad address; otherwise the write-command
frame, 32 characters. Everything else is unchanged. -/
def Obligations.WriteCommandResult : Prop :=
  decode [0b101] = .ok .frmWrcmd
    ∧ ∀ s : State, 32 ≤ s.cfg.txMax → ∃ g : TxGroup,
      (¬ AddressOk s → exec .frmWrcmd s = .next (builtState s g .caller .addr) ∧ g.txLen = 0)
      ∧ (AddressOk s → exec .frmWrcmd s = .next (builtState s g .ok .none) ∧ g.txLen = 32
          ∧ txBytes g = frameText [addressByte s 0, addressByte s 1, addressByte s 2, addressByte s 3,
              addressByte s 4, addressByte s 5, 0x00, 0x00, 0x01, operandByte s .reg, 0x01,
              0x01, 0x00, operandByte s .val])

/-- 30_encoding.md R65, 42_encode.md R110: `FRM.WRCMD` is `FRM.BUILD` with `FN = 01`, `CNT = 01`,
`BUF = [VAL]`, `BLEN = 1`, which it neither reads nor changes. -/
def Obligations.WriteCommandIsABuild : Prop :=
  ∀ s : State, ∃ t u : State, exec .frmWrcmd s = .next t
    ∧ exec .frmBuild { s with
        opd := { s.opd with fn := 1, cnt := 1, buf := [(0, operandByte s .val)], bLen := 1 }
        written := { s.written with fn := true, cnt := true } } = .next u
    ∧ t = { u with opd := s.opd, written := s.written }

/-- 42_encode.md R107: every character of a built token, two upper-case digits a frame byte. -/
def Obligations.BuiltTextCharacters : Prop :=
  ∀ s t : State, AddressOk s → 30 + 2 * s.opd.bLen.toNat ≤ s.cfg.txMax → exec .frmBuild s = .next t →
    let f := frameToBuild s (operandByte s .fn) (operandByte s .reg) (operandByte s .cnt) (bufSeq s)
    t.txg.txLen = 30 + 2 * s.opd.bLen.toNat
      ∧ readCell t.txg.tx 0 = some 0x7B
      ∧ readCell t.txg.tx (t.txg.txLen - 1) = some 0x7D
      ∧ ∀ k, k < 14 + s.opd.bLen.toNat →
          readCell t.txg.tx (2 * k + 1) = some (hexchar (((f ++ [lrc f]).getD k 0).toNat / 16))
            ∧ readCell t.txg.tx (2 * k + 2) = some (hexchar (((f ++ [lrc f]).getD k 0).toNat % 16))

/-- 42_encode.md R109 (iii): the text does not depend on the case or the separators of the address. -/
def Obligations.BuildIgnoresAddressForm : Prop :=
  ∀ s u : State, AddressOk s → 30 + 2 * s.opd.bLen.toNat ≤ s.cfg.txMax →
    u.cfg = s.cfg → operandByte u .fn = operandByte s .fn → operandByte u .reg = operandByte s .reg →
    operandByte u .cnt = operandByte s .cnt →
    bufSeq u = bufSeq s → (addrStripped u).map upper = (addrStripped s).map upper →
    ∃ t v : State, exec .frmBuild s = .next t ∧ exec .frmBuild u = .next v ∧ v.txg = t.txg ∧ t.status = .ok

/-- 41_decode.md R97: a built frame with at least one data byte, copied to `RX` and decoded, gives back
address, header bytes and data; the snapshot is there iff the data are long enough. -/
def Obligations.DecodeOfBuiltFrame : Prop :=
  ∀ s : State, AddressOk s → 30 + 2 * s.opd.bLen.toNat ≤ s.cfg.txMax → 1 ≤ s.opd.bLen.toNat →
    ∃ t u : State, exec .frmBuild s = .next t
      ∧ exec .frmDecode (presentToken (txBytes t.txg) t) = .next u
      ∧ u.dec.hV = true
      ∧ u.dec.hAddr = ⟨addressByte s 0, addressByte s 1, addressByte s 2, addressByte s 3, addressByte s 4,
          addressByte s 5⟩
      ∧ u.dec.hRsvd0 = 0 ∧ u.dec.hRsvd1 = 0
      ∧ u.dec.hFn = operandByte s .fn ∧ u.dec.hReg = operandByte s .reg ∧ u.dec.hCnt = operandByte s .cnt
      ∧ u.dec.hBc = s.opd.bLen
      ∧ (∀ i, i < s.opd.bLen.toNat → readCell u.dec.dseg i = some (bufElem s i))
      ∧ u.status = (if maxSnapIdx s.cfg.snapIdx < s.opd.bLen.toNat then .ok else .noSnap)

/-- 30_encoding.md R60: each reserved code reports `ST_BADOP` and changes nothing else. -/
def Obligations.ReservedCodesReportBadOp : Prop :=
  decode [0b000] = .ok .reserved0 ∧ decode [0b110] = .ok .reserved6 ∧ decode [0b111] = .ok .reserved7
    ∧ ∀ (s : State) (i : Instr), i = .reserved0 ∨ i = .reserved6 ∨ i = .reserved7 →
      exec i s = .next { s with status := .badOp, cause := .op, evCsum := false, evMalf := false }

/-- The receipt of a frame (log 2) is a decode of its text: a frame whose checksum matches and that has at
least one data byte leaves its own fields in the header (41_decode.md R89). -/
def Obligations.ReceivedFrameIsDecoded : Prop :=
  ∀ (s : State) (a : Addr6) (s0 s1 f r n : Byte) (data : List Byte),
    data.length ≤ 65535 → 1 ≤ data.length → 30 + 2 * data.length ≤ s.cfg.rxMax →
    ∃ t : State,
      exec (.frameGeneral a s0 s1 f r n data (lrc (headerBytes a s0 s1 f r n data.length ++ data))) s = .next t
        ∧ t.dec.hV = true ∧ t.dec.hAddr = a ∧ t.dec.hRsvd0 = s0 ∧ t.dec.hRsvd1 = s1 ∧ t.dec.hFn = f
        ∧ t.dec.hReg = r ∧ t.dec.hCnt = n ∧ t.dec.hBc.toNat = data.length
        ∧ (∀ j, j < data.length → readCell t.dec.dseg j = data[j]?)
        ∧ t.status = (if maxSnapIdx s.cfg.snapIdx < data.length then .ok else .noSnap)
        ∧ t.opd = { s.opd with rx := writeCells s.opd.rx 0 (tokenOf (encode (.frameGeneral a s0 s1 f r n data
            (lrc (headerBytes a s0 s1 f r n data.length ++ data))))), rxLen := 30 + 2 * data.length }
        ∧ t.cfg = s.cfg ∧ t.lrcg = s.lrcg ∧ t.txg = s.txg

/-- The receipt of a write-command frame (log 2): its header and value with a matching checksum, a checksum
failure with any other. -/
def Obligations.ReceivedWriteCommandIsDecoded : Prop :=
  ∀ (s : State) (a : Addr6) (r v c : Byte), 32 ≤ s.cfg.rxMax → 1 ≤ maxSnapIdx s.cfg.snapIdx →
    ∃ t : State, exec (.frameWriteCommand a r v c) s = .next t
      ∧ t.cfg = s.cfg ∧ t.lrcg = s.lrcg ∧ t.txg = s.txg ∧ t.opd.rxLen = 32
      ∧ (c = lrc (headerBytes a 0 0 1 r 1 1 ++ [v]) →
          t.status = .noSnap ∧ t.dec.hV = true ∧ t.dec.hAddr = a ∧ t.dec.hReg = r ∧ t.dec.hFn = 1
            ∧ t.dec.hBc = 1 ∧ readCell t.dec.dseg 0 = some v)
      ∧ (c ≠ lrc (headerBytes a 0 0 1 r 1 1 ++ [v]) →
          t.status = .checksum ∧ t.evCsum = true ∧ t.dec.hV = false ∧ t.dec.sV = false)

/-- The receipt of any frame that fits (log 2), with any checksum byte and any length of data, is the decode of
the token that spells it, and it completes. -/
def Obligations.FrameReceiptIsADecode : Prop :=
  ∀ (i : Instr) (s : State), isOperation i = false → 2 * (encode i).length + 2 ≤ s.cfg.rxMax →
    ∃ t : State, exec i s = .next t ∧ exec .frmDecode (presentToken (tokenOf (encode i)) s) = .next t

/-- 10_state.md R14, 93_implementation_defined.md U14 (log 9): a frame whose token exceeds `RX_MAX` cannot be
presented to the block. -/
def Obligations.FrameTooLongIsRefused : Prop :=
  ∀ (s : State) (a : Addr6) (s0 s1 f r n : Byte) (data : List Byte) (c : Byte),
    s.cfg.rxMax < 30 + 2 * data.length →
    exec (.frameGeneral a s0 s1 f r n data c) s = .refused .tokenTooLong

/-- What the receipt of a frame (log 2) leaves alone: every operand but the characters presented and their
length, the LRC and transmit groups, the configuration and the host's side. -/
def Obligations.FrameReceiptKeepsTheRest : Prop :=
  ∀ (i : Instr) (s t : State), isOperation i = false → exec i s = .next t →
    t.opd = { s.opd with rx := t.opd.rx, rxLen := t.opd.rxLen }
      ∧ t.opd.rxLen = 2 * (encode i).length + 2
      ∧ (∀ a, t.opd.rxLen ≤ a → readCell t.opd.rx a = readCell s.opd.rx a)
      ∧ t.lrcg = s.lrcg ∧ t.txg = s.txg ∧ t.cfg = s.cfg ∧ t.inbox = s.inbox ∧ t.readData = s.readData
      ∧ t.draws = s.draws ∧ t.epoch = s.epoch ∧ t.written = { s.written with rxLen := true }

/-- 60_exceptions.md R120: no operation stops the machine; each writes an outcome of R115 that is not
`ST_IDLE`, from the pairs of R116. -/
def Obligations.OperationsNeverStop : Prop :=
  ∀ (i : Instr) (s : State), isOperation i = true →
    ∃ t : State, exec i s = .next t ∧ t.status ≠ .idle ∧ t.status = t.cause.status

/-- 10_state.md R12, R13: an operation writes its own group and nothing of the operands or other groups. -/
def Obligations.OperationsKeepOtherGroups : Prop :=
  ∀ (i : Instr) (s t : State), isOperation i = true → exec i s = .next t →
    t.opd = s.opd ∧ t.cfg = s.cfg ∧ t.inbox = s.inbox ∧ t.readData = s.readData ∧ t.draws = s.draws
      ∧ t.epoch = s.epoch
      ∧ t.written = s.written
      ∧ (i ≠ .lrcCompute → i ≠ .lrcVerify → t.lrcg = s.lrcg)
      ∧ (i ≠ .frmDecode → t.dec = s.dec)
      ∧ (i ≠ .frmBuild → i ≠ .frmWrcmd → t.txg = s.txg)

/-- 00_scope.md R4: an operation's results depend on its operands and the configuration alone. An operand is what
was written, or a free byte of the reset count (logs 4, 6, 7). -/
def Obligations.ResultsDependOnOperandsOnly : Prop :=
  ∀ (i : Instr) (s u : State), isOperation i = true →
    u.opd = s.opd → u.written = s.written → u.cfg = s.cfg → u.epoch = s.epoch →
    ∃ t v : State, exec i s = .next t ∧ exec i u = .next v
      ∧ v.status = t.status ∧ v.cause = t.cause ∧ v.evCsum = t.evCsum ∧ v.evMalf = t.evMalf
      ∧ (i = .lrcCompute ∨ i = .lrcVerify → v.lrcg = t.lrcg)
      ∧ (i = .frmDecode → v.dec = t.dec)
      ∧ (i = .frmBuild ∨ i = .frmWrcmd → v.txg = t.txg)

/-- 60_exceptions.md R121, R122, R123: an event is asserted only in a step that writes its outcome, and
never two at once. -/
def Obligations.EventsMatchTheOutcome : Prop :=
  ∀ (i : Instr) (s t : State), exec i s = .next t →
    (t.evCsum = true ↔ t.status = .checksum)
      ∧ (t.evMalf = true ↔ t.status = .malformed ∨ t.status = .noSnap)
      ∧ ¬ (t.evCsum = true ∧ t.evMalf = true)

/-- 60_exceptions.md R121, R122: a step in which the host issues nothing asserts no event; with no host step
left nothing else happens either (70_reset_and_hazards.md R135; logs 1, 11). -/
def Obligations.StepsWithoutAnIssueAssertNoEvent : Prop :=
  (∀ s : State, s.inbox = [] → step s = .next { s with evCsum := false, evMalf := false })
    ∧ ∀ (s t : State) (h : HostStep) (rest : List HostStep), s.inbox = h :: rest →
      (∀ w, h ≠ .issue w) → (∀ v, h ≠ .write .op v) → step s = .next t →
      t.evCsum = false ∧ t.evMalf = false

/-- 70_reset_and_hazards.md R136: only reset brings `STATUS` back to `ST_IDLE`. -/
def Obligations.OnlyResetGivesIdle : Prop :=
  ∀ s t : State, step s = .next t → t.status = .idle →
    s.status = .idle ∨ ∃ rest, s.inbox = .reset :: rest

/-- 10_state.md R13: a host write of a buffer element is what operations read there, and nothing else. -/
def Obligations.BufferWriteStores : Prop :=
  ∀ (s : State) (i v : Nat) (rest : List HostStep), v < 256 →
    (s.inbox = .write (.rx i) v :: rest → i < s.cfg.rxMax →
        ∃ t, step s = .next t ∧ t.opd = { s.opd with rx := t.opd.rx } ∧ t.written = s.written
          ∧ (∀ j, rxElem t j = if j = i then BitVec.ofNat 8 v else rxElem s j)
          ∧ t.status = s.status ∧ t.lrcg = s.lrcg ∧ t.dec = s.dec ∧ t.txg = s.txg)
      ∧ (s.inbox = .write (.buf i) v :: rest → i < s.cfg.bufMax →
        ∃ t, step s = .next t ∧ t.opd = { s.opd with buf := t.opd.buf } ∧ t.written = s.written
          ∧ (∀ j, bufElem t j = if j = i then BitVec.ofNat 8 v else bufElem s j)
          ∧ t.status = s.status ∧ t.lrcg = s.lrcg ∧ t.dec = s.dec ∧ t.txg = s.txg)
      ∧ (s.inbox = .write (.addr i) v :: rest → i < s.cfg.addrMax →
        ∃ t, step s = .next t ∧ t.opd = { s.opd with addr := t.opd.addr } ∧ t.written = s.written
          ∧ (∀ j, addrElem t j = if j = i then BitVec.ofNat 8 v else addrElem s j)
          ∧ t.status = s.status ∧ t.lrcg = s.lrcg ∧ t.dec = s.dec ∧ t.txg = s.txg)

/-- 10_state.md R13: a host write of a length or an 8-bit operand in its range is held, and is what operations
read; no other operand, no outcome and no result group changes. -/
def Obligations.OperandRegisterWriteStores : Prop :=
  ∀ (s : State) (v : Nat) (rest : List HostStep) (r : RegName) (o : Operands),
    s.inbox = .write r v :: rest →
    ((r = .rxLen ∧ v ≤ s.cfg.rxMax ∧ o = { s.opd with rxLen := v })
      ∨ (r = .bLen ∧ v ≤ s.cfg.bufMax ∧ v < 65536 ∧ o = { s.opd with bLen := BitVec.ofNat 16 v })
      ∨ (r = .aLen ∧ v ≤ s.cfg.addrMax ∧ o = { s.opd with aLen := v })
      ∨ (r = .claim ∧ v < 256 ∧ o = { s.opd with claim := BitVec.ofNat 8 v })
      ∨ (r = .fn ∧ v < 256 ∧ o = { s.opd with fn := BitVec.ofNat 8 v })
      ∨ (r = .reg ∧ v < 256 ∧ o = { s.opd with reg := BitVec.ofNat 8 v })
      ∨ (r = .cnt ∧ v < 256 ∧ o = { s.opd with cnt := BitVec.ofNat 8 v })
      ∨ (r = .val ∧ v < 256 ∧ o = { s.opd with val := BitVec.ofNat 8 v })) →
    ∃ t : State, step s = .next t ∧ t.opd = o
      ∧ (∀ q : OperandReg, operandByte t q = if r = byteRegName q then BitVec.ofNat 8 v else operandByte s q)
      ∧ t.status = s.status ∧ t.cause = s.cause
      ∧ t.lrcg = s.lrcg ∧ t.dec = s.dec ∧ t.txg = s.txg ∧ t.inbox = rest

/-- What a host cannot express or reach (10_state.md R13 to R17, 93_implementation_defined.md U14; logs 8, 9): a
length above its capacity, a byte above 255 for any byte operand, a value above 7 for `OP`, a write or a read of
an element that does not exist, a read of `OP`. -/
def Obligations.HostAccessOutOfRangeStops : Prop :=
  ∀ (s : State) (v : Nat) (r : RegName) (rest : List HostStep),
    (s.inbox = .write .rxLen v :: rest → s.cfg.rxMax < v → step s = .refused (.notExpressible .rxLen))
      ∧ (s.inbox = .write .bLen v :: rest → s.cfg.bufMax < v → step s = .refused (.notExpressible .bLen))
      ∧ (s.inbox = .write .aLen v :: rest → s.cfg.addrMax < v → step s = .refused (.notExpressible .aLen))
      ∧ (s.inbox = .write r v :: rest → ByteOperand s.cfg r → 255 < v → step s = .refused (.notExpressible r))
      ∧ (s.inbox = .write .op v :: rest → 7 < v → step s = .refused (.notExpressible .op))
      ∧ (s.inbox = .write r v :: rest → BeyondCapacity s.cfg r → step s = .fault (.noSuchElement r))
      ∧ (s.inbox = .read r :: rest → BeyondCapacity s.cfg r → step s = .fault (.noSuchElement r))
      ∧ (s.inbox = .read .op :: rest → step s = .fault .readOfOp)

/-- 10_state.md R28: a host write to a result register keeps every register and issues nothing. -/
def Obligations.ResultWriteHasNoEffect : Prop :=
  ∀ (s : State) (r : RegName) (v : Nat) (rest : List HostStep),
    s.inbox = .write r v :: rest → isResultReg r = true → regExists s.cfg r = true →
    step s = .next { s with inbox := rest, evCsum := false, evMalf := false }

/-- 20_memory.md R39, 10_state.md R18 to R23, 70_reset_and_hazards.md R138: a read of an existing register under
its valid indication gives the number the register holds. A read of an existing register that holds no value gives a
free value of the register's width: R23 lets a model take a fault or any value, and taking the value, another at each
read, is the model's choice (log 8). No read changes a register of the block. That nothing else completes, a read of
`OP` or of an element that does not exist, is the model's choice too (logs 8, 9). `STATUS` and `CAUSE` read as the
codes of 60_exceptions.md R115 and R116. -/
def Obligations.ReadHasNoSideEffect : Prop :=
  (∀ (s : State) (r : RegName) (v : Nat) (rest : List HostStep), s.inbox = .read r :: rest → Shows s v r →
      step s = .next { s with inbox := rest, readData := v, evCsum := false, evMalf := false })
    ∧ (∀ (s : State) (r : RegName) (rest : List HostStep), s.inbox = .read r :: rest →
      r ≠ .op → ¬ BeyondCapacity s.cfg r → (∀ v, ¬ Shows s v r) →
      step s = .next { s with
        inbox := rest, readData := drawnValue s r, draws := s.draws + 1, evCsum := false, evMalf := false })
    ∧ (∀ (s t : State) (r : RegName) (rest : List HostStep), s.inbox = .read r :: rest → step s = .next t →
      r ≠ .op ∧ ¬ BeyondCapacity s.cfg r
        ∧ (Shows s t.readData r ∧ t.draws = s.draws
          ∨ (∀ v, ¬ Shows s v r) ∧ t.readData = drawnValue s r ∧ t.draws = s.draws + 1)
        ∧ t = { s with
          inbox := rest, readData := t.readData, draws := t.draws, evCsum := false, evMalf := false })
    ∧ [Status.idle, .ok, .malformed, .checksum, .noSnap, .caller, .badOp].map (fun x => x.code.toNat)
        = [0, 1, 2, 3, 4, 5, 6]
    ∧ [Cause.none, .delimOpen, .delimClose, .short, .nonHex, .overrun, .trailing, .csum, .noSnap, .addr, .len,
        .op].map (fun x => x.code.toNat) = [0, 1, 2, 3, 4, 5, 6, 7, 8, 9, 10, 11]

/-- 10_state.md R23, 41_decode.md R96: after a failed decode no header, data or snapshot register shows a value, and
after `ST_NOSNAP` no snapshot register. A host read of one gives a free value, which is the model's choice among the
two of R23 (log 8): the next one drawn, whatever the token was. -/
def Obligations.FailedDecodeLeavesNoReadableValue : Prop :=
  ∀ (s t : State) (r : RegName), exec .frmDecode s = .next t → regExists s.cfg r = true →
    ((t.status = .malformed ∨ t.status = .checksum) ∧ (isHeaderReg r = true ∨ isSnapReg r = true)
        ∨ t.status = .noSnap ∧ isSnapReg r = true) →
    (∀ v, ¬ Shows t v r)
      ∧ ∃ u : State, step { t with inbox := [.read r] } = .next u
        ∧ u.readData = (Config.unspecifiedRead s.draws).toNat % 2 ^ resultWidth r

/-- 10_state.md R26, 70_reset_and_hazards.md R135: what reset leaves, from any state by the reset input and in
the machine's start state. The clauses on `cfg`, `inbox`, `readData` and `draws` are the
model's (logs 8, 18, 21). -/
def Obligations.ResetLeavesTheStatedValues : Prop :=
  (∀ (s : State) (rest : List HostStep), s.inbox = .reset :: rest →
    ∃ t : State, step s = .next t
      ∧ t.status.code = 0 ∧ t.cause.code = 0
      ∧ t.lrcg.lrcV = false ∧ t.lrcg.matV = false ∧ t.dec.hV = false ∧ t.dec.sV = false
      ∧ t.txg.txLen = 0 ∧ t.opd.rxLen = 0 ∧ t.opd.bLen = 0 ∧ t.opd.aLen = 0
      ∧ t.evCsum = false ∧ t.evMalf = false
      ∧ t.cfg = s.cfg ∧ t.inbox = rest ∧ t.readData = s.readData ∧ t.draws = s.draws)
    ∧ State.reset.status.code = 0 ∧ State.reset.cause.code = 0
    ∧ State.reset.lrcg.lrcV = false ∧ State.reset.lrcg.matV = false
    ∧ State.reset.dec.hV = false ∧ State.reset.dec.sV = false
    ∧ State.reset.txg.txLen = 0 ∧ State.reset.opd.rxLen = 0 ∧ State.reset.opd.bLen = 0
    ∧ State.reset.opd.aLen = 0 ∧ State.reset.evCsum = false ∧ State.reset.evMalf = false

/-- The invariants of Safety.lean hold after reset (10_state.md R26, 00_scope.md R5). The empty groups are log 5's
placeholders and the exact cells of `TX` and `DSEG` are log 14's. -/
def Obligations.InvariantsHoldAtReset : Prop := Inv State.reset

/-- No step changes the configuration (00_scope.md section 4; log 3). -/
def Obligations.StepKeepsConfiguration : Prop :=
  ∀ s t : State, step s = .next t → t.cfg = s.cfg

/-- Every step keeps every buffer in canonical form. -/
def Obligations.StepKeepsMemoriesCanonical : Prop :=
  ∀ s t : State, MemoriesCanonical s → step s = .next t → MemoriesCanonical t

/-- Every step keeps every length and every cell below its buffer's capacity (10_state.md R14 to R16, R22). -/
def Obligations.StepKeepsCapacities : Prop :=
  ∀ s t : State, configOk s.cfg = true → CapacityRespected s → step s = .next t → CapacityRespected t

/-- Every step keeps `STATUS` and `CAUSE` a pair of 60_exceptions.md R116. -/
def Obligations.StepKeepsOutcomeLegal : Prop :=
  ∀ s t : State, OutcomeLegal s → step s = .next t → OutcomeLegal t

/-- Every step keeps the LRC group consistent (10_state.md R19; log 5's empty group). -/
def Obligations.StepKeepsLrcGroupConsistent : Prop :=
  ∀ s t : State, LrcConsistent s → step s = .next t → LrcConsistent t

/-- Every step keeps the decode group consistent (10_state.md R20, R21, R23, R27; log 5's empty group and
log 14's exact cells). -/
def Obligations.StepKeepsDecodeGroupConsistent : Prop :=
  ∀ s t : State, DecodeConsistent s → step s = .next t → DecodeConsistent t

/-- After every step `TX` holds nothing or exactly one frame that sums to 0 modulo 256 (10_state.md R22,
R23, 42_encode.md R105; log 14's exact cells). -/
def Obligations.StepKeepsTransmitBufferAFrame : Prop :=
  ∀ s t : State, TransmitConsistent s → step s = .next t → TransmitConsistent t

/-- 41_decode.md R92: the scaled temperatures are exact. -/
def Obligations.ScaledTemperatures : Prop :=
  ∀ d : DecodeGroup, 2 * setTemperature d = d.sSetTemp.toNat ∧ 10 * roomTemperature d = d.sRoom.toNat
    ∧ 0 ≤ setTemperature d ∧ setTemperature d ≤ 255 / 2 ∧ 0 ≤ roomTemperature d ∧ roomTemperature d ≤ 65535 / 10
end

