-- ==== Sys2Proof/Laws/Memory.lean ====
section
/-! SUPPORT. The laws of the buffers: read after write, and the canonical form. -/

namespace Sys2Proof.Machine

@[simp] theorem readCell_nil (a : Nat) : readCell [] a = none := rfl

theorem readCell_writeCell_same (m : Memory) (a : Nat) (b : Byte) : readCell (writeCell m a b) a = some b := by
  induction m with
  | nil => simp [writeCell, readCell]
  | cons x m ih =>
    obtain ⟨k, v⟩ := x
    by_cases h1 : a < k
    · simp [writeCell, h1, readCell]
    · by_cases h2 : a = k
      · subst h2
        simp [writeCell, readCell]
      · simp [writeCell, h1, h2, readCell, ih]

theorem readCell_writeCell_other (m : Memory) {a c : Nat} (b : Byte) (h : c ≠ a) :
    readCell (writeCell m a b) c = readCell m c := by
  induction m with
  | nil => simp [writeCell, readCell, h]
  | cons x m ih =>
    obtain ⟨k, v⟩ := x
    by_cases h1 : a < k
    · simp [writeCell, h1, readCell, h]
    · by_cases h2 : a = k
      · subst h2
        simp [writeCell, readCell, h]
      · simp [writeCell, h1, h2, readCell, ih]

theorem readCell_writeCell (m : Memory) (a c : Nat) (b : Byte) :
    readCell (writeCell m a b) c = if c = a then some b else readCell m c := by
  split
  · next h => rw [h, readCell_writeCell_same]
  · next h => exact readCell_writeCell_other m b h

theorem mem_writeCell {m : Memory} {a : Nat} {b : Byte} {x : Host.Cell} (h : x ∈ writeCell m a b) :
    x = (a, b) ∨ x ∈ m := by
  induction m with
  | nil => simpa [writeCell] using h
  | cons y m ih =>
    obtain ⟨k, v⟩ := y
    unfold writeCell at h
    split at h
    · simpa using h
    · split at h
      · rcases List.mem_cons.mp h with h | h
        · exact .inl h
        · exact .inr (List.mem_cons_of_mem _ h)
      · rcases List.mem_cons.mp h with h | h
        · exact .inr (h ▸ List.mem_cons_self)
        · exact (ih h).imp_right (List.mem_cons_of_mem _)

theorem writeCell_wf {m : Memory} (a : Nat) (b : Byte) (h : Memory.wf m) : Memory.wf (writeCell m a b) := by
  induction m with
  | nil => simp [writeCell, Memory.wf]
  | cons x m ih =>
    obtain ⟨k, v⟩ := x
    have hm := List.pairwise_cons.mp h
    unfold writeCell
    split
    · next hlt =>
      refine List.pairwise_cons.mpr ⟨fun y hy => ?_, h⟩
      rcases List.mem_cons.mp hy with rfl | hy
      · exact hlt
      · exact Nat.lt_trans hlt (hm.1 y hy)
    · split
      · next heq =>
        subst heq
        exact List.pairwise_cons.mpr ⟨fun y hy => hm.1 y hy, hm.2⟩
      · refine List.pairwise_cons.mpr ⟨fun y hy => ?_, ih hm.2⟩
        rcases mem_writeCell hy with rfl | hy
        · simp only
          omega
        · exact hm.1 y hy

theorem writeCells_wf {m : Memory} (a : Nat) (bs : List Byte) (h : Memory.wf m) :
    Memory.wf (writeCells m a bs) := by
  induction bs generalizing m a with
  | nil => exact h
  | cons b bs ih => exact ih (a + 1) (writeCell_wf a b h)

theorem mem_writeCells {m : Memory} {a : Nat} {bs : List Byte} {x : Host.Cell}
    (h : x ∈ writeCells m a bs) : x ∈ m ∨ (a ≤ x.1 ∧ x.1 < a + bs.length) := by
  induction bs generalizing m a with
  | nil => exact .inl h
  | cons b bs ih =>
    rcases ih h with h | h
    · rcases mem_writeCell h with rfl | h
      · right
        simp
      · exact .inl h
    · right
      simp only [List.length_cons]
      omega

/-- A write of a sequence reads back inside its span and leaves every other element alone. -/
theorem readCell_writeCells (m : Memory) (a c : Nat) (bs : List Byte) :
    readCell (writeCells m a bs) c
      = if a ≤ c ∧ c < a + bs.length then some (bs.getD (c - a) 0) else readCell m c := by
  induction bs generalizing m a with
  | nil =>
    have h : ¬ (a ≤ c ∧ c < a) := by omega
    rw [writeCells, List.length_nil, Nat.add_zero, if_neg h]
  | cons b bs ih =>
    rw [writeCells, ih, readCell_writeCell]
    by_cases h1 : a + 1 ≤ c ∧ c < a + 1 + bs.length
    · have h2 : a ≤ c ∧ c < a + (bs.length + 1) := by omega
      have h3 : c - a = (c - (a + 1)) + 1 := by omega
      simp only [h1, List.length_cons, h2, h3, and_self, if_true, List.getD_cons_succ]
    · by_cases h3 : c = a
      · subst h3
        have h4 : ¬ (c + 1 ≤ c) := by omega
        simp [h4]
      · have h5 : ¬ (a ≤ c ∧ c < a + (bs.length + 1)) := by omega
        rw [if_neg h1, if_neg h3, if_neg (by simpa using h5)]

theorem cellsFrom_bounds {a : Nat} {bs : List Byte} {x : Host.Cell} (h : x ∈ cellsFrom a bs) :
    a ≤ x.1 ∧ x.1 < a + bs.length := by
  induction bs generalizing a with
  | nil => simp [cellsFrom] at h
  | cons b bs ih =>
    rcases List.mem_cons.mp h with rfl | h
    · simp
    · have := ih h
      simp only [List.length_cons]
      omega

theorem cellsFrom_wf (a : Nat) (bs : List Byte) : Memory.wf (cellsFrom a bs) := by
  induction bs generalizing a with
  | nil => simp [cellsFrom, Memory.wf]
  | cons b bs ih =>
    exact List.pairwise_cons.mpr ⟨fun y hy => (cellsFrom_bounds hy).1, ih (a + 1)⟩

/-- A result buffer holds its sequence and nothing else. -/
theorem readCell_cellsFrom (a c : Nat) (bs : List Byte) :
    readCell (cellsFrom a bs) c = if a ≤ c then bs[c - a]? else none := by
  induction bs generalizing a with
  | nil => simp [cellsFrom]
  | cons b bs ih =>
    rw [cellsFrom, readCell, ih]
    by_cases h1 : c = a
    · subst h1
      simp
    · by_cases h2 : a ≤ c
      · have h3 : a + 1 ≤ c := by omega
        have h4 : c - a = (c - (a + 1)) + 1 := by omega
        simp [h1, h2, h3, h4]
      · have h3 : ¬ a + 1 ≤ c := by omega
        simp [h1, h2, h3]

@[simp] theorem readCells_length (free : Nat → Byte) (m : Memory) (a n : Nat) :
    (readCells free m a n).length = n := by
  induction n generalizing a with
  | zero => rfl
  | succ n ih => simp [readCells, ih]

/-- `MemRead` element by element. -/
theorem readCells_eq_map (free : Nat → Byte) (m : Memory) (a n : Nat) :
    readCells free m a n = (List.range n).map (fun i => (readCell m (a + i)).getD (free (a + i))) := by
  induction n generalizing a with
  | zero => rfl
  | succ n ih =>
    rw [readCells, ih, List.range_succ_eq_map]
    simp [Function.comp_def, Nat.add_assoc, Nat.add_comm 1]

theorem readCells_getElem? (free : Nat → Byte) (m : Memory) (a n i : Nat) (h : i < n) :
    (readCells free m a n)[i]? = some ((readCell m (a + i)).getD (free (a + i))) := by
  simp [readCells_eq_map, h]

/-- Reading back exactly what a result buffer holds. -/
theorem readCells_cellsFrom (free : Nat → Byte) (a : Nat) (bs : List Byte) :
    readCells free (cellsFrom a bs) a bs.length = bs := by
  apply List.ext_getElem?
  intro i
  by_cases h : i < bs.length
  · rw [readCells_getElem? _ _ _ _ _ h, readCell_cellsFrom]
    simp [h]
  · rw [List.getElem?_eq_none (by simpa using h), List.getElem?_eq_none (by simpa using h)]

/-- Reading back a sequence just written. -/
theorem readCells_writeCells (free : Nat → Byte) (m : Memory) (a : Nat) (bs : List Byte) :
    readCells free (writeCells m a bs) a bs.length = bs := by
  apply List.ext_getElem?
  intro i
  by_cases h : i < bs.length
  · rw [readCells_getElem? _ _ _ _ _ h, readCell_writeCells]
    simp [h]
  · rw [List.getElem?_eq_none (by simpa using h), List.getElem?_eq_none (by simpa using h)]

end Sys2Proof.Machine
end

