-- ==== Sys2Proof/Laws/State.lean ====
section
/-! SUPPORT. What each named update of the state leaves in each field. -/

namespace Sys2Proof.Machine

section
variable (s : State) (st : Status) (c : Cause)

@[simp] theorem commitOutcome_cfg : (commitOutcome st c s).cfg = s.cfg := rfl
@[simp] theorem commitOutcome_opd : (commitOutcome st c s).opd = s.opd := rfl
@[simp] theorem commitOutcome_status : (commitOutcome st c s).status = st := rfl
@[simp] theorem commitOutcome_cause : (commitOutcome st c s).cause = c := rfl
@[simp] theorem commitOutcome_lrcg : (commitOutcome st c s).lrcg = s.lrcg := rfl
@[simp] theorem commitOutcome_dec : (commitOutcome st c s).dec = s.dec := rfl
@[simp] theorem commitOutcome_txg : (commitOutcome st c s).txg = s.txg := rfl
@[simp] theorem commitOutcome_evCsum : (commitOutcome st c s).evCsum = csumEvent st := rfl
@[simp] theorem commitOutcome_evMalf : (commitOutcome st c s).evMalf = malfEvent st := rfl
@[simp] theorem commitOutcome_inbox : (commitOutcome st c s).inbox = s.inbox := rfl
@[simp] theorem commitOutcome_readData : (commitOutcome st c s).readData = s.readData := rfl
@[simp] theorem commitOutcome_draws : (commitOutcome st c s).draws = s.draws := rfl
@[simp] theorem commitOutcome_epoch : (commitOutcome st c s).epoch = s.epoch := rfl
@[simp] theorem commitOutcome_written : (commitOutcome st c s).written = s.written := rfl

@[simp] theorem quiet_cfg : (quiet s).cfg = s.cfg := rfl
@[simp] theorem quiet_opd : (quiet s).opd = s.opd := rfl
@[simp] theorem quiet_status : (quiet s).status = s.status := rfl
@[simp] theorem quiet_cause : (quiet s).cause = s.cause := rfl
@[simp] theorem quiet_lrcg : (quiet s).lrcg = s.lrcg := rfl
@[simp] theorem quiet_dec : (quiet s).dec = s.dec := rfl
@[simp] theorem quiet_txg : (quiet s).txg = s.txg := rfl
@[simp] theorem quiet_evCsum : (quiet s).evCsum = false := rfl
@[simp] theorem quiet_evMalf : (quiet s).evMalf = false := rfl
@[simp] theorem quiet_inbox : (quiet s).inbox = s.inbox := rfl
@[simp] theorem quiet_readData : (quiet s).readData = s.readData := rfl
@[simp] theorem quiet_draws : (quiet s).draws = s.draws := rfl
@[simp] theorem quiet_epoch : (quiet s).epoch = s.epoch := rfl
@[simp] theorem quiet_written : (quiet s).written = s.written := rfl

@[simp] theorem resetBlock_cfg : (resetBlock s).cfg = s.cfg := rfl
@[simp] theorem resetBlock_opd : (resetBlock s).opd = Operands.reset := rfl
@[simp] theorem resetBlock_status : (resetBlock s).status = .idle := rfl
@[simp] theorem resetBlock_cause : (resetBlock s).cause = .none := rfl
@[simp] theorem resetBlock_lrcg : (resetBlock s).lrcg = LrcGroup.empty := rfl
@[simp] theorem resetBlock_dec : (resetBlock s).dec = DecodeGroup.empty := rfl
@[simp] theorem resetBlock_txg : (resetBlock s).txg = TxGroup.empty := rfl
@[simp] theorem resetBlock_evCsum : (resetBlock s).evCsum = false := rfl
@[simp] theorem resetBlock_evMalf : (resetBlock s).evMalf = false := rfl
@[simp] theorem resetBlock_inbox : (resetBlock s).inbox = s.inbox := rfl
@[simp] theorem resetBlock_readData : (resetBlock s).readData = s.readData := rfl
@[simp] theorem resetBlock_draws : (resetBlock s).draws = s.draws := rfl
@[simp] theorem resetBlock_epoch : (resetBlock s).epoch = s.epoch + 1 := rfl

@[simp] theorem presentToken_cfg (tok : List Byte) : (presentToken tok s).cfg = s.cfg := rfl
@[simp] theorem presentToken_rx (tok : List Byte) :
    (presentToken tok s).opd.rx = writeCells s.opd.rx 0 tok := rfl
@[simp] theorem presentToken_rxLen (tok : List Byte) : (presentToken tok s).opd.rxLen = tok.length := rfl
@[simp] theorem presentToken_lrcg (tok : List Byte) : (presentToken tok s).lrcg = s.lrcg := rfl
@[simp] theorem presentToken_dec (tok : List Byte) : (presentToken tok s).dec = s.dec := rfl
@[simp] theorem presentToken_txg (tok : List Byte) : (presentToken tok s).txg = s.txg := rfl
@[simp] theorem presentToken_written (tok : List Byte) :
    (presentToken tok s).written = { s.written with rxLen := true } := rfl
@[simp] theorem resetBlock_written : (resetBlock s).written = Written.nothing := rfl

end

end Sys2Proof.Machine
end

