-- ==== Sys2Proof/Laws/Text.lean ====
section
/-! SUPPORT. The laws of characters, digits, bytes and the checksum. -/

namespace Sys2Proof.Machine

theorem ishex_hexchar (v : Nat) (h : v < 16) : ishex (hexchar v) = true := by
  revert v; decide

theorem hexval_hexchar (v : Nat) (h : v < 16) : hexval (hexchar v) = v := by
  revert v; decide

theorem hexval_lt_of_ishex (c : Byte) (h : ishex c = true) : hexval c < 16 := by
  revert c; decide

theorem ishex_upper (c : Byte) : ishex (upper c) = ishex c := by
  revert c; decide

theorem hexval_upper (c : Byte) (h : ishex c = true) : hexval (upper c) = hexval c := by
  revert c; decide

theorem upper_hexchar (v : Nat) (h : v < 16) : upper (hexchar v) = hexchar v := by
  revert v; decide

theorem hexchar_hexval (c : Byte) (h : ishex c = true) : hexchar (hexval c) = upper c := by
  revert c; decide

theorem ishex_openBrace : ishex openBrace = false := by decide

theorem ishex_closeBrace : ishex closeBrace = false := by decide

@[simp] theorem hexseq_length (bs : List Byte) : (hexseq bs).length = 2 * bs.length := by
  induction bs with
  | nil => rfl
  | cons b bs ih => simp [hexseq, hex2, ih]; omega

theorem hexseq_append (bs cs : List Byte) : hexseq (bs ++ cs) = hexseq bs ++ hexseq cs := by
  induction bs with
  | nil => rfl
  | cons b bs ih => simp [hexseq, ih]

theorem hexseq_all_ishex (bs : List Byte) : (hexseq bs).all ishex = true := by
  induction bs with
  | nil => rfl
  | cons b bs ih =>
    have h1 : b.toNat / 16 < 16 := by have := b.isLt; omega
    have h2 : b.toNat % 16 < 16 := Nat.mod_lt _ (by omega)
    simp [hexseq, hex2, ishex_hexchar _ h1, ishex_hexchar _ h2, ih]

/-- The high digit of byte `k` stands at `2k`. -/
theorem hexseq_getD_even (bs : List Byte) (k : Nat) (h : k < bs.length) :
    (hexseq bs).getD (2 * k) 0 = hexchar ((bs.getD k 0).toNat / 16) := by
  induction bs generalizing k with
  | nil => simp at h
  | cons b bs ih =>
    cases k with
    | zero => rfl
    | succ k =>
      have : 2 * (k + 1) = 2 * k + 1 + 1 := by omega
      simpa [hexseq, hex2, this] using ih k (by simpa using h)

/-- The low digit of byte `k` stands at `2k+1`. -/
theorem hexseq_getD_odd (bs : List Byte) (k : Nat) (h : k < bs.length) :
    (hexseq bs).getD (2 * k + 1) 0 = hexchar ((bs.getD k 0).toNat % 16) := by
  induction bs generalizing k with
  | nil => simp at h
  | cons b bs ih =>
    cases k with
    | zero => rfl
    | succ k =>
      have : 2 * (k + 1) = 2 * k + 1 + 1 := by omega
      simpa [hexseq, hex2, this] using ih k (by simpa using h)

/-- Two digits spell their byte again. -/
theorem byteAt_hexseq (bs : List Byte) (k : Nat) (h : k < bs.length) :
    byteAt (hexseq bs) k = bs.getD k 0 := by
  have h1 : (bs.getD k 0).toNat / 16 < 16 := by have := (bs.getD k 0).isLt; omega
  have h2 : (bs.getD k 0).toNat % 16 < 16 := Nat.mod_lt _ (by omega)
  rw [byteAt, hexseq_getD_even bs k h, hexseq_getD_odd bs k h, hexval_hexchar _ h1, hexval_hexchar _ h2,
    Nat.div_add_mod]
  simp

theorem byteSum_append (bs cs : List Byte) : byteSum (bs ++ cs) = byteSum bs + byteSum cs := by
  induction bs with
  | nil => simp [byteSum]
  | cons b bs ih => simp [byteSum, ih, Nat.add_assoc]

theorem byteSum_eq_sum (bs : List Byte) : byteSum bs = (bs.map BitVec.toNat).sum := by
  induction bs with
  | nil => rfl
  | cons b bs ih => simp [byteSum, ih]

theorem lrc_toNat (bs : List Byte) : (lrc bs).toNat = (0xFF - byteSum bs % 256 + 1) % 256 := by
  simp [lrc]

end Sys2Proof.Machine
end

