-- ==== Sys2Proof/Laws/Ops.lean ====
section
/-! SUPPORT. One lemma per shared operation: everything it can answer. -/

namespace Sys2Proof.Machine

@[simp] theorem rxText_length (s : State) : (rxText s).length = s.opd.rxLen := readCells_length ..

@[simp] theorem bufBytes_length (s : State) : (bufBytes s).length = s.opd.bLen.toNat := readCells_length ..

@[simp] theorem addrText_length (s : State) : (addrText s).length = s.opd.aLen := readCells_length ..

/-- The token character by character. -/
theorem rxText_getD (s : State) {i : Nat} (h : i < s.opd.rxLen) : (rxText s).getD i 0 = rxElem s i := by
  simp [rxText, rxElem, List.getD_eq_getElem?_getD, readCells_getElem? _ _ _ _ _ h]

/-- The operand bytes one by one. -/
theorem bufBytes_getD (s : State) {i : Nat} (h : i < s.opd.bLen.toNat) :
    (bufBytes s).getD i 0 = bufElem s i := by
  simp [bufBytes, bufElem, List.getD_eq_getElem?_getD, readCells_getElem? _ _ _ _ _ h]

/-- An 8-bit operand depends on its register, its written flag and the reset count alone. -/
theorem operandByte_congr {s u : State} (ho : u.opd = s.opd) (hw : u.written = s.written) (he : u.epoch = s.epoch)
    (r : OperandReg) : operandByte u r = operandByte s r := by
  cases r <;> simp only [operandByte, ho, hw, he]

@[simp] theorem tokenOf_length (f : List Byte) : (tokenOf f).length = 2 * f.length + 2 := by
  simp [tokenOf]

@[simp] theorem headerBytes_length (a : Addr6) (s0 s1 f r n : Byte) (k : Nat) :
    (headerBytes a s0 s1 f r n k).length = 13 := rfl

@[simp] theorem builtBytes_length (a : Addr6) (fn reg cnt : Byte) (data : List Byte) :
    (builtBytes a fn reg cnt data).length = 13 + data.length := by
  simp [builtBytes]

/-- Stripping a token of ours gives back its digits. -/
@[simp] theorem stripped_tokenOf (f : List Byte) : stripped (tokenOf f) = hexseq f := by
  simp [stripped, tokenOf]

/-- What a build can answer: a caller error, or the token of the built frame with its checksum. -/
theorem buildToken_cases (cfg : Config) (addr : List Byte) (fn reg cnt : Byte) (data : List Byte) :
    (addrIsOk (normaliseAddr cfg addr) = false ∧ buildToken cfg addr fn reg cnt data = .error .addr)
      ∨ (addrIsOk (normaliseAddr cfg addr) = true ∧ 30 + 2 * data.length > cfg.txMax
          ∧ buildToken cfg addr fn reg cnt data = .error .len)
      ∨ (addrIsOk (normaliseAddr cfg addr) = true ∧ 30 + 2 * data.length ≤ cfg.txMax
          ∧ buildToken cfg addr fn reg cnt data
              = .ok (tokenOf (builtBytes (addrOf (normaliseAddr cfg addr)) fn reg cnt data
                  ++ [lrc (builtBytes (addrOf (normaliseAddr cfg addr)) fn reg cnt data)]))) := by
  by_cases h : addrIsOk (normaliseAddr cfg addr) = true
  · by_cases h2 : 30 + 2 * data.length > cfg.txMax
    · exact .inr (.inl ⟨h, h2, by simp [buildToken, h, h2]⟩)
    · exact .inr (.inr ⟨h, by omega, by simp [buildToken, h, h2]⟩)
  · exact .inl ⟨by simpa using h, by simp [buildToken, h]⟩

/-- What a decode leaves of everything outside its own group. -/
theorem decodeRx_frame (s : State) :
    (decodeRx s).cfg = s.cfg ∧ (decodeRx s).opd = s.opd ∧ (decodeRx s).lrcg = s.lrcg
      ∧ (decodeRx s).txg = s.txg ∧ (decodeRx s).inbox = s.inbox ∧ (decodeRx s).readData = s.readData
      ∧ (decodeRx s).draws = s.draws ∧ (decodeRx s).epoch = s.epoch ∧ (decodeRx s).written = s.written := by
  unfold decodeRx
  cases parseToken s.cfg (rxText s) <;> exact ⟨rfl, rfl, rfl, rfl, rfl, rfl, rfl, rfl, rfl⟩

/-- What a build leaves of everything outside its own group. -/
theorem commitBuild_frame (s : State) (r : Except Cause (List Byte)) :
    (commitBuild s r).cfg = s.cfg ∧ (commitBuild s r).opd = s.opd ∧ (commitBuild s r).lrcg = s.lrcg
      ∧ (commitBuild s r).dec = s.dec ∧ (commitBuild s r).inbox = s.inbox
      ∧ (commitBuild s r).readData = s.readData ∧ (commitBuild s r).draws = s.draws
      ∧ (commitBuild s r).epoch = s.epoch
      ∧ (commitBuild s r).written = s.written := by
  cases r <;> exact ⟨rfl, rfl, rfl, rfl, rfl, rfl, rfl, rfl, rfl⟩

/-- The receipt of a frame answers a decode of its token, or refuses a token that cannot be presented. -/
theorem receiveFrame_cases (f : List Byte) (s : State) :
    (2 * f.length + 2 ≤ s.cfg.rxMax ∧ receiveFrame f s = .next (decodeRx (presentToken (tokenOf f) s)))
      ∨ (s.cfg.rxMax < 2 * f.length + 2 ∧ receiveFrame f s = .refused .tokenTooLong) := by
  by_cases h : 2 * f.length + 2 ≤ s.cfg.rxMax
  · exact .inl ⟨h, by simp [receiveFrame, h]⟩
  · exact .inr ⟨by omega, by simp [receiveFrame, h]⟩

/-- The token a host has just presented is the token that is decoded. -/
theorem rxText_presentToken (tok : List Byte) (s : State) : rxText (presentToken tok s) = tok :=
  readCells_writeCells _ _ 0 tok

end Sys2Proof.Machine
end

