-- ==== Sys2Proof/Laws/Parser.lean ====
section
/-! SUPPORT. The stripped text, the byte count and the frame bytes, position by position. -/

namespace Sys2Proof.Machine

@[simp] theorem stripped_length (tok : List Byte) : (stripped tok).length = tok.length - 2 := by
  simp [stripped]
  omega

theorem stripped_getD (tok : List Byte) {p : Nat} (h : p < tok.length - 2) :
    (stripped tok).getD p 0 = tok.getD (p + 1) 0 := by
  simp [stripped, List.getD_eq_getElem?_getD, h]

/-- `T[p] = RX[p+1]` (20_memory.md R31). -/
theorem stripped_rxText (s : State) {p : Nat} (h : p < s.opd.rxLen - 2) :
    (stripped (rxText s)).getD p 0 = pos s p := by
  rw [stripped_getD _ (by simpa using h), rxText_getD s (by omega), pos]

/-- A frame byte of the stripped text (20_memory.md R32). -/
theorem byteAt_rxText (s : State) {k : Nat} (h : 2 * k + 1 < s.opd.rxLen - 2) :
    byteAt (stripped (rxText s)) k = posByte s k := by
  rw [byteAt, stripped_rxText s (by omega), stripped_rxText s h, posByte]

theorem le16_toNat (lo hi : Byte) : (le16 lo hi).toNat = lo.toNat + 256 * hi.toNat := by
  have h1 := lo.isLt
  have h2 := hi.isLt
  simp only [le16, BitVec.toNat_ofNat]
  omega

/-- A count splits into its two bytes and comes back (30_encoding.md R54, R55). -/
theorem le16_lowByte_highByte (n : Nat) (h : n < 65536) : (le16 (lowByte n) (highByte n)).toNat = n := by
  rw [le16_toNat]
  simp only [lowByte, highByte, BitVec.toNat_ofNat]
  omega

theorem tokenCount_lt (s : State) : tokenCount s < 65536 := by
  have h1 := (posByte s 11).isLt
  have h2 := (posByte s 12).isLt
  simp only [tokenCount]
  omega

/-- The byte count (41_decode.md R83). -/
theorem byteCount_rxText (s : State) (h : 30 ≤ s.opd.rxLen - 2) :
    (byteCount (stripped (rxText s))).toNat = tokenCount s := by
  rw [byteCount, le16_toNat, byteAt_rxText s (by omega), byteAt_rxText s (by omega), tokenCount]

/-- All the frame bytes (41_decode.md R87). -/
theorem frameBytes_rxText (s : State) (h1 : 30 ≤ s.opd.rxLen - 2)
    (h2 : 28 + 2 * tokenCount s ≤ s.opd.rxLen - 2) :
    frameBytes (stripped (rxText s)) = posBytes s 0 (14 + tokenCount s) := by
  rw [frameBytes, byteCount_rxText s h1, posBytes]
  refine List.map_congr_left fun k hk => ?_
  rw [byteAt_rxText s (by have := List.mem_range.mp hk; omega), Nat.zero_add]

@[simp] theorem posBytes_length (s : State) (a n : Nat) : (posBytes s a n).length = n := by simp [posBytes]

theorem posBytes_getD (s : State) (a n : Nat) {i : Nat} (h : i < n) :
    (posBytes s a n).getD i 0 = posByte s (a + i) := by
  simp [posBytes, List.getD_eq_getElem?_getD, h]

theorem posBytes_take (s : State) (a n m : Nat) (h : m ≤ n) : (posBytes s a n).take m = posBytes s a m := by
  simp [posBytes, ← List.map_take, List.take_range, Nat.min_eq_left h]

theorem posBytes_drop (s : State) (a m n : Nat) : (posBytes s a (m + n)).drop m = posBytes s (a + m) n := by
  apply List.ext_getElem?
  intro i
  by_cases h : i < n
  · simp [posBytes, h, Nat.add_assoc]
  · rw [List.getElem?_eq_none (by simp; omega), List.getElem?_eq_none (by simp; omega)]

/-- The digit test over a span of the text. -/
theorem all_ishex_rxText (s : State) (n : Nat) (h : n ≤ s.opd.rxLen - 2) :
    ((stripped (rxText s)).take n).all ishex = true ↔ ∀ p, p < n → ishex (pos s p) = true := by
  have key : (stripped (rxText s)).take n = (List.range n).map (pos s) := by
    apply List.ext_getElem?
    intro p
    by_cases hp : p < n
    · have h1 := stripped_rxText s (p := p) (by omega)
      have h2 : p < (stripped (rxText s)).length := by simp; omega
      rw [List.getElem?_take_of_lt hp]
      rw [List.getD_eq_getElem?_getD, List.getElem?_eq_getElem h2, Option.getD_some] at h1
      rw [List.getElem?_eq_getElem h2, h1]
      simp [hp]
    · rw [List.getElem?_eq_none (by simp; omega), List.getElem?_eq_none (by simp; omega)]
  rw [key]
  simp

/-- The first character of the token. -/
theorem rxText_head? (s : State) : (rxText s).head? = if s.opd.rxLen = 0 then none else some (rxElem s 0) := by
  by_cases h : s.opd.rxLen = 0
  · simp [rxText, h, readCells]
  · have h1 := rxText_getD s (i := 0) (by omega)
    have h2 : 0 < (rxText s).length := by simp; omega
    rw [if_neg h, List.head?_eq_getElem?, List.getElem?_eq_getElem h2]
    rw [List.getD_eq_getElem?_getD, List.getElem?_eq_getElem h2, Option.getD_some] at h1
    rw [h1]

/-- The last character of the token. -/
theorem rxText_getLast? (s : State) :
    (rxText s).getLast? = if s.opd.rxLen = 0 then none else some (rxElem s (s.opd.rxLen - 1)) := by
  by_cases h : s.opd.rxLen = 0
  · simp [rxText, h, readCells]
  · have h1 := rxText_getD s (i := s.opd.rxLen - 1) (by omega)
    have h2 : s.opd.rxLen - 1 < (rxText s).length := by simp; omega
    rw [if_neg h, List.getLast?_eq_getElem?, rxText_length, List.getElem?_eq_getElem h2]
    rw [List.getD_eq_getElem?_getD, List.getElem?_eq_getElem h2, Option.getD_some] at h1
    rw [h1]

end Sys2Proof.Machine
end

