-- ==== Sys2Proof/Laws/PerInstr.lean ====
section
/-! SUPPORT. Statements for all instructions, one lemma per constructor. -/

namespace Sys2Proof.Laws

/-- How many bytes an instruction's encoding has: one for an operation word, 14 and the data for a frame. -/
def byteLength : Instr → Nat
  | .lrcCompute => 1
  | .lrcVerify => 1
  | .frmDecode => 1
  | .frmBuild => 1
  | .frmWrcmd => 1
  | .reserved0 => 1
  | .reserved6 => 1
  | .reserved7 => 1
  | .frameWriteCommand _ _ _ _ => 15
  | .frameGeneral _ _ _ _ _ _ data _ => 14 + data.length

/-- The encoding has the length the table gives the row (30_encoding.md R50, R57, 20_memory.md R36). -/
def EncodeLength.Statement (i : Instr) : Prop := (encode i).length = byteLength i

theorem EncodeLength.lrcCompute : EncodeLength.Statement .lrcCompute := rfl
theorem EncodeLength.lrcVerify : EncodeLength.Statement .lrcVerify := rfl
theorem EncodeLength.frmDecode : EncodeLength.Statement .frmDecode := rfl
theorem EncodeLength.frmBuild : EncodeLength.Statement .frmBuild := rfl
theorem EncodeLength.frmWrcmd : EncodeLength.Statement .frmWrcmd := rfl
theorem EncodeLength.reserved0 : EncodeLength.Statement .reserved0 := rfl
theorem EncodeLength.reserved6 : EncodeLength.Statement .reserved6 := rfl
theorem EncodeLength.reserved7 : EncodeLength.Statement .reserved7 := rfl
theorem EncodeLength.frameWriteCommand (a : Addr6) (r v c : Byte) :
    EncodeLength.Statement (.frameWriteCommand a r v c) := rfl
theorem EncodeLength.frameGeneral (a : Addr6) (s0 s1 f r n : Byte) (data : List Byte) (c : Byte) :
    EncodeLength.Statement (.frameGeneral a s0 s1 f r n data c) := by
  simp [EncodeLength.Statement, encode, headerBytes, Addr6.toList, byteLength]
  omega

end Sys2Proof.Laws
end

