-- ==== Sys2Proof/Laws/Step.lean ====
section
/-! SUPPORT. Said once: what a parse, an instruction and a step can answer. -/

namespace Sys2Proof.Machine

/-- The data segment taken out of the frame bytes has the length the byte count says. -/
theorem headerOf_data_length (t : List Byte) :
    (headerOf (frameBytes t) (byteCount t)).data.length = (byteCount t).toNat := by
  simp [headerOf, frameBytes]
  omega

/-- The four ends of a parse (41_decode.md R95), with what each result is made of. -/
theorem parseToken_cases (cfg : Config) (tok : List Byte) :
    (∃ c : Cause, c.status = .malformed ∧ parseToken cfg tok = .malformed c)
      ∨ parseToken cfg tok = .checksum
      ∨ (∃ h : HeaderVals, h.data.length = h.bc.toNat ∧ h.bc.toNat ≤ maxSnapIdx cfg.snapIdx
          ∧ parseToken cfg tok = .noSnap h)
      ∨ (∃ h : HeaderVals, h.data.length = h.bc.toNat ∧ maxSnapIdx cfg.snapIdx < h.bc.toNat
          ∧ parseToken cfg tok = .snap h (snapOf cfg.snapIdx h.data)) := by
  have hlen := headerOf_data_length (stripped tok)
  unfold parseToken
  split
  · exact .inl ⟨.delimOpen, rfl, rfl⟩
  split
  · exact .inl ⟨.delimClose, rfl, rfl⟩
  unfold parseText
  split
  · exact .inl ⟨.short, rfl, rfl⟩
  split
  · exact .inl ⟨.nonHex, rfl, rfl⟩
  split
  · exact .inl ⟨.overrun, rfl, rfl⟩
  split
  · exact .inl ⟨.trailing, rfl, rfl⟩
  split
  · exact .inl ⟨.nonHex, rfl, rfl⟩
  split
  · exact .inr (.inl rfl)
  unfold parseVerified
  split
  · next h => exact .inr (.inr (.inl ⟨_, hlen, h, rfl⟩))
  · next h => exact .inr (.inr (.inr ⟨_, hlen, by omega, rfl⟩))

/-- What an instruction that answers a next state has done. -/
theorem exec_next_cases {i : Instr} {s t : State} (h : exec i s = .next t) :
    (i = .lrcCompute ∧ t = succeed { s with
        lrcg := { lrc := lrc (bufBytes s), lrcV := true, mat := false, matV := false } })
      ∨ (i = .lrcVerify ∧ t = succeed { s with
        lrcg := { lrc := lrc (bufBytes s), lrcV := true,
                  mat := matchFlag (lrc (bufBytes s)) (operandByte s .claim), matV := true } })
      ∨ (i = .frmDecode ∧ t = decodeRx s)
      ∨ (i = .frmBuild ∧ t = commitBuild s
          (buildToken s.cfg (addrText s) (operandByte s .fn) (operandByte s .reg) (operandByte s .cnt)
            (bufBytes s)))
      ∨ (i = .frmWrcmd ∧ t = commitBuild s
          (buildToken s.cfg (addrText s) 1 (operandByte s .reg) 1 [operandByte s .val]))
      ∨ ((i = .reserved0 ∨ i = .reserved6 ∨ i = .reserved7) ∧ t = raise .none .badOp .op s)
      ∨ (isOperation i = false ∧ ∃ f : List Byte, 2 * f.length + 2 ≤ s.cfg.rxMax
          ∧ t = decodeRx (presentToken (tokenOf f) s)) := by
  have received : ∀ f : List Byte, receiveFrame f s = .next t →
      ∃ f : List Byte, 2 * f.length + 2 ≤ s.cfg.rxMax ∧ t = decodeRx (presentToken (tokenOf f) s) := by
    intro f hf
    rcases receiveFrame_cases f s with ⟨hl, he⟩ | ⟨_, he⟩
    · exact ⟨f, hl, by rw [he] at hf; exact (Host.Outcome.next.inj hf).symm⟩
    · rw [he] at hf; cases hf
  cases i with
  | lrcCompute => exact .inl ⟨rfl, (Host.Outcome.next.inj h).symm⟩
  | lrcVerify => exact .inr (.inl ⟨rfl, (Host.Outcome.next.inj h).symm⟩)
  | frmDecode => exact .inr (.inr (.inl ⟨rfl, (Host.Outcome.next.inj h).symm⟩))
  | frmBuild => exact .inr (.inr (.inr (.inl ⟨rfl, (Host.Outcome.next.inj h).symm⟩)))
  | frmWrcmd => exact .inr (.inr (.inr (.inr (.inl ⟨rfl, (Host.Outcome.next.inj h).symm⟩))))
  | reserved0 =>
    exact .inr (.inr (.inr (.inr (.inr (.inl ⟨.inl rfl, (Host.Outcome.next.inj h).symm⟩)))))
  | reserved6 =>
    exact .inr (.inr (.inr (.inr (.inr (.inl ⟨.inr (.inl rfl), (Host.Outcome.next.inj h).symm⟩)))))
  | reserved7 =>
    exact .inr (.inr (.inr (.inr (.inr (.inl ⟨.inr (.inr rfl), (Host.Outcome.next.inj h).symm⟩)))))
  | frameWriteCommand a r v c =>
    exact .inr (.inr (.inr (.inr (.inr (.inr ⟨rfl, received _ h⟩)))))
  | frameGeneral a s0 s1 f r n data c =>
    exact .inr (.inr (.inr (.inr (.inr (.inr ⟨rfl, received _ h⟩)))))

/-- A host read changes only the value read, the count of free values drawn and the event outputs: the value of
a register that has one, else the next free value (log 8). -/
theorem readRegister_cases (r : RegName) (s : State) :
    (∃ v, regValue s r = some v ∧ readRegister r s = quiet { s with readData := v })
      ∨ (regValue s r = none
          ∧ readRegister r s = quiet { s with readData := drawnValue s r, draws := s.draws + 1 }) := by
  unfold readRegister
  split
  · next v hv => exact .inl ⟨v, hv, rfl⟩
  · next hv => exact .inr ⟨hv, rfl⟩

/-- What a step that answers a next state has done: nothing, an instruction, an operand or result write,
a read, or reset. -/
theorem step_next_cases {s t : State} (h : step s = .next t) :
    (s.inbox = [] ∧ t = quiet s)
      ∨ (∃ hd rest i, s.inbox = hd :: rest ∧ ((∃ w, hd = .issue w) ∨ ∃ v, hd = .write .op v)
          ∧ exec i { s with inbox := rest } = .next t)
      ∨ (∃ r v rest, s.inbox = .write r v :: rest ∧ r ≠ .op ∧ regExists s.cfg r = true
          ∧ (∀ m, writeLimit s.cfg r = some m → v ≤ m)
          ∧ t = quiet { s with inbox := rest, opd := writeOperand s.opd v r,
                               written := noteWritten s.written r })
      ∨ (∃ r rest, s.inbox = .read r :: rest ∧ r ≠ .op ∧ regExists s.cfg r = true
          ∧ t = readRegister r { s with inbox := rest })
      ∨ (∃ rest, s.inbox = .reset :: rest ∧ t = resetBlock { s with inbox := rest }) := by
  have issued : ∀ (w : List Byte) (u : State), issueWord w u = .next t → ∃ i, exec i u = .next t := by
    intro w u hu
    unfold issueWord at hu
    split at hu
    · exact ⟨_, hu⟩
    · cases hu
  unfold step runInbox at h
  split at h
  · next hin => exact .inl ⟨hin, (Host.Outcome.next.inj h).symm⟩
  · next hd rest hin =>
    cases hd with
    | issue w =>
      obtain ⟨i, hi⟩ := issued w _ h
      exact .inr (.inl ⟨_, rest, i, hin, .inl ⟨w, rfl⟩, hi⟩)
    | write r v =>
      simp only [hostStep, hostWrite] at h
      split at h
      · cases h
      · next hex =>
        split at h
        · cases h
        · next hlim =>
          split at h
          · next hop =>
            subst hop
            obtain ⟨i, hi⟩ := issued _ _ h
            exact .inr (.inl ⟨_, rest, i, hin, .inr ⟨v, rfl⟩, hi⟩)
          · next hop =>
            refine .inr (.inr (.inl ⟨r, v, rest, hin, hop, by simpa using hex, ?_, ?_⟩))
            · intro m hm
              rw [hm] at hlim
              simpa using hlim
            · exact (Host.Outcome.next.inj h).symm
    | read r =>
      simp only [hostStep, hostRead] at h
      split at h
      · cases h
      · next hop =>
        split at h
        · cases h
        · next hex =>
          exact .inr (.inr (.inr (.inl ⟨r, rest, hin, hop, by simpa using hex, (Host.Outcome.next.inj h).symm⟩)))
    | reset => exact .inr (.inr (.inr (.inr ⟨rest, hin, (Host.Outcome.next.inj h).symm⟩)))

end Sys2Proof.Machine
end

