-- ==== Sys2Proof/Tests/Slice0.lean ====
section
/-! SUPPORT. Tests against 95_test_vectors.md, and a witness for the hypotheses of every statement. -/

namespace Sys2Proof.Tests

open Sys2Proof Sys2Proof.Machine

/-! ## Small states -/

/-- The character codes of a text (30_encoding.md R52). -/
def chars (t : String) : List Byte := t.toList.map (fun c => BitVec.ofNat 8 c.toNat)

/-- A text between its delimiters. -/
def token (t : String) : List Byte := 0x7B :: (chars t ++ [0x7D])

/-- Every length and 8-bit operand written. -/
def allWritten : Written where
  rxLen := true
  bLen  := true
  aLen  := true
  claim := true
  fn    := true
  reg   := true
  cnt   := true
  val   := true

/-- A state whose receive buffer holds a token. -/
def withRx (tok : List Byte) : State :=
  { State.reset with
    opd := { Operands.reset with rx := cellsFrom 0 tok, rxLen := tok.length }
    written := allWritten }

/-- The same under policy `reject`. -/
def withRxReject (tok : List Byte) : State :=
  { withRx tok with cfg := { Config.reference with trailing := .reject } }

/-- A state whose byte buffer holds a sequence, with a claimed checksum. -/
def withBuf (bs : List Byte) (claim : Byte) : State :=
  { State.reset with
    opd := { Operands.reset with buf := cellsFrom 0 bs, bLen := BitVec.ofNat 16 bs.length, claim := claim }
    written := allWritten }

/-- A state with an address text and the four one-byte operands of the builders, and data bytes. -/
def withAddr (addr : String) (fn reg cnt val : Byte) (bs : List Byte) : State :=
  { State.reset with
    opd := { Operands.reset with
      addr := cellsFrom 0 (chars addr), aLen := (chars addr).length, fn := fn, reg := reg, cnt := cnt, val := val
      buf := cellsFrom 0 bs, bLen := BitVec.ofNat 16 bs.length }
    written := allWritten }

/-- A state with host steps to come. -/
def withInbox (h : List HostStep) : State := { State.reset with inbox := h }

/-- What holds of the next state; false where there is none. -/
def After (a : Answer) (p : State → Bool) : Bool :=
  match a with
  | .next t => p t
  | .fault _ => false
  | .refused _ => false

/-- The 70 characters of 95_test_vectors.md S1. -/
def exampleText : String := "600194657C39000000001515000406000507280000012C01C80085EEEE003030304F53"

/-- The address of 95_test_vectors.md S1. -/
def exampleAddr : Addr6 := ⟨0x60, 0x01, 0x94, 0x65, 0x7C, 0x39⟩

/-- The turn-on frame, 95_test_vectors.md V-E1. -/
def turnOn : Instr := .frameWriteCommand exampleAddr 0x02 0x01 0xEB

/-- The minimum snapshot frame, 95_test_vectors.md V-D20. -/
def minimumFrame : Instr :=
  .frameGeneral exampleAddr 0 0 0 0 0x0B [0, 0, 1, 0, 3, 0x2B, 0, 5, 2, 0xFF, 0xFF] 0xA7

/-! ## WellFormed: an ill-formed term for each check -/

theorem long_data_is_ill_formed (n : Nat) (h : 65535 < n) :
    (Instr.frameGeneral exampleAddr 0 0 0 0 0 (List.replicate n 0) 0).wellFormed = false := by
  simp [Instr.wellFormed, h]

theorem test_wellFormed_refuses_long_data :
    (Instr.frameGeneral exampleAddr 0 0 0 0 0 (List.replicate 65536 0) 0).wellFormed = false :=
  long_data_is_ill_formed 65536 (by decide)

theorem test_wellFormed_refuses_write_command_as_general :
    (Instr.frameGeneral exampleAddr 0 0 1 2 1 [1] 0xEB).wellFormed = false := by decide

theorem test_wellFormed_takes_other_count :
    (Instr.frameGeneral exampleAddr 0 0 1 2 7 [1] 0xE5).wellFormed = true := by decide

/-! ## Decode: words written out from 30_encoding.md R50, R57 and 20_memory.md R36 -/

theorem test_decode_compute : decode [0b001] = .ok .lrcCompute := by decide
theorem test_decode_verify : decode [0b010] = .ok .lrcVerify := by decide
theorem test_decode_frm_decode : decode [0b011] = .ok .frmDecode := by decide
theorem test_decode_build : decode [0b100] = .ok .frmBuild := by decide
theorem test_decode_wrcmd : decode [0b101] = .ok .frmWrcmd := by decide
theorem test_decode_reserved0 : decode [0b000] = .ok .reserved0 := by decide
theorem test_decode_reserved6 : decode [0b110] = .ok .reserved6 := by decide
theorem test_decode_reserved7 : decode [0b111] = .ok .reserved7 := by decide

/-- V-E1's bytes. -/
theorem test_decode_write_command :
    decode [0x60, 0x01, 0x94, 0x65, 0x7C, 0x39, 0, 0, 0x01, 0x02, 0x01, 0x01, 0x00, 0x01, 0xEB] = .ok turnOn := by
  decide

/-- V-D20's bytes. -/
theorem test_decode_general :
    decode [0x60, 0x01, 0x94, 0x65, 0x7C, 0x39, 0, 0, 0, 0, 0x0B, 0x0B, 0x00,
      0x00, 0x00, 0x01, 0x00, 0x03, 0x2B, 0x00, 0x05, 0x02, 0xFF, 0xFF, 0xA7] = .ok minimumFrame := by decide

/-- V-E24's bytes: no data segment. -/
theorem test_decode_general_without_data :
    decode [0x60, 0x01, 0x94, 0x65, 0x7C, 0x39, 0, 0, 0x01, 0x02, 0x01, 0x00, 0x00, 0xED]
      = .ok (.frameGeneral exampleAddr 0 0 1 2 1 [] 0xED) := by decide

theorem test_decode_refuses_nothing : decode [] = .error .empty := by decide
theorem test_decode_refuses_wide_op : decode [8] = .error .opTooWide := by decide
theorem test_decode_refuses_short_frame : decode (List.replicate 13 0) = .error .frameTooShort := by decide

/-- A byte count of 1 on a frame of 14 bytes. -/
theorem test_decode_refuses_wrong_length :
    decode [0x60, 0x01, 0x94, 0x65, 0x7C, 0x39, 0, 0, 1, 2, 1, 1, 0, 0xED] = .error .frameLength := by decide

/-- The table's numbering: the first byte in bits 7..0 (log 12). -/
theorem test_table_word_operation : decodeTableWord 8 5 = some .frmWrcmd := by decide

theorem test_table_word_write_command :
    decodeTableWord 120 0xEB0100010102010000397C65940160 = some turnOn := by decide

/-- A general header with byte count 0: the checksum byte beyond it is zero (log 12). -/
theorem test_table_word_general :
    decodeTableWord 104 0x00000000000000397C65940160 = some (.frameGeneral exampleAddr 0 0 0 0 0 [] 0) := by decide

theorem test_fetch_word_runs :
    step (State.reset.withFetchWord 8 6) = exec .reserved6 State.reset := rfl

theorem test_fetch_word_runs_a_frame :
    After (step (State.reset.withFetchWord 120 0xEB0100010102010000397C65940160))
      (fun t => t.dec.hV && t.dec.hReg == 2) = true := by decide

/-! ## Vectors of 95_test_vectors.md -/

/-- V-L8. -/
theorem test_compute_three_bytes :
    After (exec .lrcCompute (withBuf [0x01, 0x02, 0x03] 0)) (fun t => t.lrcg.lrc == 0xFA && t.status == .ok) = true := by
  decide

/-- V-L1. -/
theorem test_compute_empty :
    After (exec .lrcCompute (withBuf [] 0)) (fun t => t.lrcg.lrc == 0 && t.lrcg.lrcV && !t.lrcg.matV) = true := by
  decide

/-- V-L15. -/
theorem test_verify_mismatch :
    After (exec .lrcVerify (withBuf [0x01, 0x02, 0x03] 0xFB))
      (fun t => !t.lrcg.mat && t.lrcg.matV && t.status == .ok && !t.evCsum) = true := by decide

/-- V-L19's text form: "be" and "BE" match. V-L18's: "5g" is not expressible. -/
theorem test_verify_text :
    let bs : List Byte := [0x60, 0x01, 0x94, 0x65, 0x7C, 0x39, 0, 0, 0x01, 0x05, 0x01, 0x01, 0x00, 0x2B]
    verifyText bs 0x62 0x65 = some true ∧ verifyText bs 0x42 0x45 = some true ∧ verifyText bs 0x35 0x33 = some false
      ∧ verifyText bs 0x35 0x67 = none := by decide

/-- 70_reset_and_hazards.md R137: an unwritten operand makes the host program at fault, also at length 0. -/
theorem test_issues_unwritten :
    issuesUnwritten (withInbox [.issue [3]]) = true ∧ issuesUnwritten (withInbox [.write .op 2]) = true
      ∧ issuesUnwritten (withInbox [.issue [6]]) = false
      ∧ issuesUnwritten { withBuf [1] 0 with inbox := [.issue [2]] } = false := by decide

/-- 70_reset_and_hazards.md R137: an operation on an unwritten 8-bit operand runs, whatever the byte. -/
theorem test_unwritten_claim_runs :
    After (exec .lrcVerify State.reset) (fun t => t.lrcg.matV && t.lrcg.lrc == 0 && t.status == .ok) = true := by
  decide

/-- V-D1. -/
theorem test_decode_example :
    After (exec .frmDecode (withRx (token exampleText)))
      (fun t => t.status == .ok && t.dec.hBc == 21 && t.dec.sPower == 0 && t.dec.sFan == 7 && t.dec.sSetTemp == 0x28
        && t.dec.sSweep == 0 && t.dec.sMode == 1 && t.dec.sRoom == 300) = true := by decide

/-- V-D12 under `reject`. -/
theorem test_decode_trailing :
    After (exec .frmDecode (withRxReject
        (token "600194657C39000000001514000406000507280000012C01C80085EEEE003030304F53")))
      (fun t => t.status == .malformed && t.cause == .trailing && t.evMalf) = true := by decide

/-- V-E28. -/
theorem test_build_minimum_frame :
    After (exec .frmBuild (withAddr "600194657C39" 0 0 0x0B 0 [0, 0, 1, 0, 3, 0x2B, 0, 5, 2, 0xFF, 0xFF]))
      (fun t => txBytes t.txg == token "600194657C39000000000B0B0000000100032B000502FFFFA7" && t.txg.txLen == 52)
      = true := by decide

/-- V-E34. -/
theorem test_build_long_address :
    After (exec .frmBuild (withAddr "600194657C399" 1 2 1 0 [1]))
      (fun t => t.status == .caller && t.cause == .addr && t.txg.txLen == 0 && !t.evMalf) = true := by decide

/-- V-E30. -/
theorem test_wrcmd_separated_address :
    After (exec .frmWrcmd (withAddr "60:01:94:65:7c:39" 9 5 9 0x2B []))
      (fun t => publishedText t == some (token "600194657C39000001050101002BBE") && t.status == .ok) = true := by decide

/-- V-E23: the checksum is zero. -/
theorem test_wrcmd_zero_checksum :
    After (exec .frmWrcmd (withAddr "600194657C39" 9 2 9 0xEC []))
      (fun t => txBytes t.txg == token "600194657C3900000102010100EC00") = true := by decide

/-- V-O1 to V-O3. -/
theorem test_reserved0 :
    After (exec .reserved0 State.reset) (fun t => t.status.code == 6 && t.cause.code == 11) = true := by decide

theorem test_reserved6 :
    After (exec .reserved6 State.reset) (fun t => t.status.code == 6 && t.cause.code == 11) = true := by decide

theorem test_reserved7 :
    After (exec .reserved7 State.reset) (fun t => t.status.code == 6 && t.cause.code == 11) = true := by decide

/-- V-D32. -/
theorem test_receive_write_command :
    After (exec turnOn State.reset)
      (fun t => t.status == .noSnap && t.dec.hFn == 1 && t.dec.hReg == 2 && t.dec.hCnt == 1
        && readCell t.dec.dseg 0 == some 1) = true := by decide

/-- V-D20. -/
theorem test_receive_general :
    After (exec minimumFrame State.reset)
      (fun t => t.status == .ok && t.dec.sFan == 3 && t.dec.sMode == 2 && t.dec.sRoom == 65535) = true := by decide

/-- V-H6. -/
theorem test_interpret_unknown_codes :
    let d := { DecodeGroup.empty with sV := true, sPower := 1, sFan := 8, sSetTemp := 0x30, sSweep := 6, sMode := 3 }
    (interpret d).hvac = .off ∧ (interpret d).fan = ['8'] ∧ (interpret d).swing = ['6'] := by decide

/-- V-H4. -/
theorem test_interpret_automatic :
    let d := { DecodeGroup.empty with sV := true, sPower := 1, sFan := 255, sSetTemp := 0x2B, sSweep := 8, sMode := 2 }
    (interpret d).hvac = .dry ∧ (interpret d).fan = autoName ∧ (interpret d).swing = autoName := by decide

/-- 95_test_vectors.md S6. -/
theorem test_mode_change_commands :
    intentCommands (.setHvacMode .cool) = some [.send 0x08 0x01, .settle 300, .send 0x02 0x01] := by decide

/-- The same as host steps (P5): address, mode, build, publish, power, build, publish. -/
theorem test_mode_change_steps :
    (intentSteps (chars "600194657C39") (.setHvacMode .cool)).map
        (List.filter (fun h => h ∈ [.write .aLen 12, .write .reg 8, .write .reg 2, .write .val 1, .issue [5],
          .read .txLen, .read (.tx 31)]))
      = some [.write .aLen 12, .write .reg 8, .write .val 1, .issue [5], .read .txLen, .read (.tx 31),
          .write .aLen 12, .write .reg 2, .write .val 1, .issue [5], .read .txLen, .read (.tx 31)] := by decide

/-! ## Witnesses: states and operands that meet the hypotheses of the statements -/

/-- The example token in `RX` (V-D1). -/
def exampleState : State := withRx (token exampleText)

theorem countReadable_of {s : State}
    (h : s.opd.rxLen ≠ 0 ∧ rxElem s 0 = openBrace ∧ rxElem s (s.opd.rxLen - 1) = closeBrace)
    (hl : 30 ≤ s.opd.rxLen - 2) (hx : ∀ p, p < 26 → 22 ≤ p → ishex (pos s p) = true) : CountReadable s :=
  ⟨h, hl, fun p h1 h2 => hx p h2 h1⟩

theorem spanOk_of {s : State} (n : Nat) (hc : CountReadable s) (hn : tokenCount s = n)
    (h : 28 + 2 * n ≤ s.opd.rxLen - 2 ∧ (s.cfg.trailing = .reject → 28 + 2 * n = s.opd.rxLen - 2)) : SpanOk s := by
  subst hn
  exact ⟨hc, h⟩

theorem wellFormedToken_of {s : State} (n : Nat) (hs : SpanOk s) (hn : tokenCount s = n)
    (h : (List.range (28 + 2 * n)).all (fun p => ishex (pos s p)) = true) : WellFormedToken s := by
  subst hn
  exact ⟨hs, by simpa using h⟩

theorem verifiedToken_of {s : State} (n : Nat) (hw : WellFormedToken s) (hn : tokenCount s = n)
    (h : lrc (posBytes s 0 (13 + n)) = posByte s (13 + n)) : VerifiedToken s := by
  subst hn
  exact ⟨hw, h⟩

theorem witness_decodeOfEncode :
    turnOn.wellFormed = true ∧ minimumFrame.wellFormed = true
      ∧ (Instr.frameGeneral exampleAddr 0 0 1 2 1 [] 0xED).wellFormed = true := by decide

theorem witness_encodeOfDecode : decode [7] = .ok .reserved7 := by decide

theorem witness_operationWordsDecode : 8 ≤ (8 : Byte).toNat ∧ 8 ≤ (255 : Byte).toNat := by decide

theorem witness_stepRunsTheDecodedInstruction :
    (withInbox [.issue [3], .reset]).inbox = .issue [3] :: [.reset] ∧ decode [3] = .ok .frmDecode := by decide

theorem witness_writingOpIssuesTheOperation :
    (withInbox [.write .op 7]).inbox = .write .op 7 :: [] ∧ (withInbox [.write .op 0]).inbox = .write .op 0 :: []
      ∧ 7 < 8 ∧ 0 < 8 := by decide

theorem witness_checksumLaws_sum : (([0x80, 0x80] : List Byte).map BitVec.toNat).sum % 256 = 0 := by decide

theorem witness_checksumLaws_order : ([1, 2, 3] : List Byte).Perm [3, 1, 2] := by decide

theorem witness_checksumLaws_change :
    2 < ([1, 2, 3] : List Byte).length ∧ (4 : Byte) ≠ ([1, 2, 3] : List Byte).getD 2 0 := by decide

theorem witness_decodeRejectsMissingDelimiter_empty : (withRx []).opd.rxLen = 0 := by decide

/-- V-D8. -/
theorem witness_decodeRejectsMissingDelimiter_open : rxElem (withRx [0x7D]) 0 ≠ 0x7B := by decide

/-- V-D9. -/
theorem witness_decodeRejectsMissingDelimiter_close :
    (withRx [0x7B]).opd.rxLen ≠ 0 ∧ rxElem (withRx [0x7B]) 0 = 0x7B
      ∧ rxElem (withRx [0x7B]) ((withRx [0x7B]).opd.rxLen - 1) ≠ 0x7D := by decide

/-- V-D17: 29 characters. -/
theorem witness_decodeRejectsShortText :
    Delimited (withRx (token "00000000000000000000000000000"))
      ∧ (withRx (token "00000000000000000000000000000")).opd.rxLen - 2 < 30 := by
  unfold Delimited
  decide

/-- Thirty characters and more (V-D18, V-D1). -/
theorem witness_decodeRejectsShortText_passes :
    (let s := withRx (token "000000000000000000000000000000"); Delimited s ∧ 30 = s.opd.rxLen - 2)
      ∧ Delimited exampleState ∧ 30 ≤ exampleState.opd.rxLen - 2 := by
  unfold Delimited
  decide

/-- V-D16: the first position of the byte count; and its last. -/
theorem witness_decodeRejectsNonHexCount :
    (let s := withRx (token "0000000000000000000000x0000000"); Delimited s ∧ 30 ≤ s.opd.rxLen - 2
        ∧ ishex (pos s 22) = false)
      ∧ (let s := withRx (token "0000000000000000000000000x0000"); Delimited s ∧ 30 ≤ s.opd.rxLen - 2
        ∧ ishex (pos s 25) = false) := by
  unfold Delimited
  decide

/-- V-D34: a byte count of 2 on 30 characters. -/
theorem witness_decodeRejectsOverrun :
    let s := withRx (token "000000000000000000000002000000")
    CountReadable s ∧ s.opd.rxLen - 2 < 28 + 2 * tokenCount s :=
  ⟨countReadable_of (by decide) (by decide) (by decide), by decide⟩

/-- V-D18: two characters too many. -/
theorem witness_decodeRejectsTrailingText :
    let s := withRxReject (token "000000000000000000000000000000")
    CountReadable s ∧ s.cfg.trailing = .reject ∧ 28 + 2 * tokenCount s < s.opd.rxLen - 2 :=
  ⟨countReadable_of (by decide) (by decide) (by decide), by decide, by decide⟩

theorem example_countReadable : CountReadable exampleState :=
  countReadable_of (by decide) (by decide) (by decide)

theorem example_tokenCount : tokenCount exampleState = 21 := by decide

theorem example_spanOk : SpanOk exampleState :=
  spanOk_of 21 example_countReadable example_tokenCount (by decide)

theorem example_verified : VerifiedToken exampleState :=
  verifiedToken_of 21 (wellFormedToken_of 21 example_spanOk example_tokenCount (by decide)) example_tokenCount
    (by decide)

/-- V-D31 (the first position) and V-D15 (the last of the checksum). -/
theorem witness_decodeRejectsNonHexBody :
    (let s := withRx (token "Z00000000000000000000000000000");
      SpanOk s ∧ 0 < 28 + 2 * tokenCount s ∧ ishex (pos s 0) = false)
      ∧ (let s := withRx (token "000000000000000000000000000G00");
        SpanOk s ∧ 27 < 28 + 2 * tokenCount s ∧ ishex (pos s 27) = false) :=
  ⟨⟨spanOk_of 0 (countReadable_of (by decide) (by decide) (by decide)) (by decide) (by decide), by decide, by decide⟩,
    ⟨spanOk_of 0 (countReadable_of (by decide) (by decide) (by decide)) (by decide) (by decide), by decide, by decide⟩⟩

/-- V-D18's text with another checksum. -/
theorem witness_decodeRejectsWrongChecksum :
    let s := withRx (token "000000000000000000000000000100")
    WellFormedToken s ∧ lrc (posBytes s 0 (13 + tokenCount s)) ≠ posByte s (13 + tokenCount s) :=
  ⟨wellFormedToken_of 0
    (spanOk_of 0 (countReadable_of (by decide) (by decide) (by decide)) (by decide) (by decide)) (by decide)
    (by decide), by decide⟩

/-- V-D21: ten data bytes, one too few. -/
theorem witness_decodeWithoutSnapshot :
    let s := withRx (token "600194657C39000000000A0A0000000100032B000502FFA8")
    VerifiedToken s ∧ tokenCount s ≤ maxSnapIdx s.cfg.snapIdx := by
  have hn : tokenCount (withRx (token "600194657C39000000000A0A0000000100032B000502FFA8")) = 10 := by decide
  exact ⟨verifiedToken_of 10 (wellFormedToken_of 10
    (spanOk_of 10 (countReadable_of (by decide) (by decide) (by decide)) hn (by decide)) hn (by decide)) hn
    (by decide), by decide⟩

/-- V-D20: eleven data bytes, just enough. -/
theorem witness_decodeWithSnapshot :
    let s := withRx (token "600194657C39000000000B0B0000000100032B000502FFFFA7")
    VerifiedToken s ∧ maxSnapIdx s.cfg.snapIdx < tokenCount s := by
  have hn : tokenCount (withRx (token "600194657C39000000000B0B0000000100032B000502FFFFA7")) = 11 := by decide
  exact ⟨verifiedToken_of 11 (wellFormedToken_of 11
    (spanOk_of 11 (countReadable_of (by decide) (by decide) (by decide)) hn (by decide)) hn (by decide)) hn
    (by decide), by decide⟩

/-- V-D1b against V-D1. -/
theorem witness_decodeIgnoresLetterCase :
    let s := withRx (token "600194657c39000000001515000406000507280000012c01c80085eeee003030304f53")
    exampleState.cfg = s.cfg ∧ exampleState.opd.rxLen = s.opd.rxLen
      ∧ ∀ i, i < s.opd.rxLen → rxElem exampleState i = upper (rxElem s i) := by decide

/-- V-D14 against V-D1. -/
theorem witness_decodeIgnoresTrailingText :
    let u := withRx (token (exampleText ++ "ZZZ"))
    exampleState.cfg.trailing = .ignore ∧ u.cfg = exampleState.cfg ∧ SpanOk exampleState ∧ SpanOk u
      ∧ ∀ p, p < 28 + 2 * tokenCount exampleState → pos u p = pos exampleState p :=
  ⟨by decide, by decide, example_spanOk,
    spanOk_of 21 (countReadable_of (by decide) (by decide) (by decide)) (by decide) (by decide),
    by
      have h : (List.range 70).all (fun p => pos (withRx (token (exampleText ++ "ZZZ"))) p == pos exampleState p)
          = true := by decide
      rw [example_tokenCount]
      simpa using h⟩

theorem witness_trailingPoliciesAgreeOnExactTokens :
    CountReadable exampleState ∧ 28 + 2 * tokenCount exampleState = exampleState.opd.rxLen - 2 :=
  ⟨example_countReadable, by decide⟩

/-- V-D3 (position 35), and the first and the last position of the data segment. -/
theorem witness_decodeSeesOneAlteredDataCharacter :
    VerifiedToken exampleState
      ∧ (26 ≤ 35 ∧ 35 < 26 + 2 * tokenCount exampleState ∧ ishex 0x38 = true
        ∧ hexval 0x38 ≠ hexval (pos exampleState 35))
      ∧ (26 < 26 + 2 * tokenCount exampleState ∧ hexval 0x38 ≠ hexval (pos exampleState 26))
      ∧ (67 < 26 + 2 * tokenCount exampleState ∧ hexval 0x38 ≠ hexval (pos exampleState 67)) :=
  ⟨example_verified, by decide⟩

theorem addressOk_of {s : State} (h : (addrStripped s).length = 12 ∧ (addrStripped s).all ishex = true) :
    AddressOk s := ⟨h.1, by simpa using h.2⟩

/-- V-E31's operands: a separated address. -/
def buildState : State := withAddr "60-01-94-65-7C-39" 1 5 1 0x2B [0x2B]

theorem buildState_addressOk : AddressOk buildState := addressOk_of (by decide)

theorem witness_buildResult :
    AddressOk buildState ∧ 30 + 2 * buildState.opd.bLen.toNat ≤ buildState.cfg.txMax :=
  ⟨buildState_addressOk, by decide⟩

/-- The smallest transmit buffer that holds the frame, and one that does not. -/
theorem witness_buildResult_boundary :
    let s := { buildState with cfg := { Config.reference with txMax := 32 } }
    AddressOk s ∧ 30 + 2 * s.opd.bLen.toNat ≤ s.cfg.txMax ∧ 32 ≤ s.cfg.txMax :=
  ⟨addressOk_of (by decide), by decide⟩

/-- V-E33: eleven digits. -/
theorem witness_buildResult_no_address : ¬ AddressOk (withAddr "600194657C3" 1 2 1 0 []) := by
  unfold AddressOk
  decide

/-- V-E36: a character that is no digit. -/
theorem witness_buildResult_no_digit : ¬ AddressOk (withAddr "6001946G7C39" 1 2 1 0 []) := by
  unfold AddressOk
  decide

theorem witness_buildResult_no_length :
    let s := { withAddr "600194657C39" 1 2 1 0 [0, 0] with cfg := { Config.reference with txMax := 33 } }
    AddressOk s ∧ s.cfg.txMax < 30 + 2 * s.opd.bLen.toNat :=
  ⟨addressOk_of (by decide), by decide⟩

theorem witness_writeCommandResult : 32 ≤ buildState.cfg.txMax ∧ AddressOk buildState :=
  ⟨by decide, buildState_addressOk⟩

theorem witness_builtTextCharacters :
    AddressOk buildState ∧ 30 + 2 * buildState.opd.bLen.toNat ≤ buildState.cfg.txMax
      ∧ ∃ t, exec .frmBuild buildState = .next t :=
  ⟨buildState_addressOk, by decide, _, rfl⟩

/-- V-E31 against V-E32. -/
theorem witness_buildIgnoresAddressForm :
    let u := withAddr "600194657c39" 1 5 1 0x2B [0x2B]
    AddressOk buildState ∧ 30 + 2 * buildState.opd.bLen.toNat ≤ buildState.cfg.txMax
      ∧ u.cfg = buildState.cfg ∧ operandByte u .fn = operandByte buildState .fn
      ∧ operandByte u .reg = operandByte buildState .reg ∧ operandByte u .cnt = operandByte buildState .cnt
      ∧ bufSeq u = bufSeq buildState
      ∧ (addrStripped u).map upper = (addrStripped buildState).map upper :=
  ⟨buildState_addressOk, by decide⟩

/-- One data byte (no snapshot) and, in V-E28, eleven (a snapshot). -/
theorem witness_decodeOfBuiltFrame :
    (AddressOk buildState ∧ 30 + 2 * buildState.opd.bLen.toNat ≤ buildState.cfg.txMax
        ∧ 1 ≤ buildState.opd.bLen.toNat)
      ∧ (let s := withAddr "600194657C39" 0 0 0x0B 0 [0, 0, 1, 0, 3, 0x2B, 0, 5, 2, 0xFF, 0xFF]
        AddressOk s ∧ 30 + 2 * s.opd.bLen.toNat ≤ s.cfg.txMax ∧ 1 ≤ s.opd.bLen.toNat
          ∧ maxSnapIdx s.cfg.snapIdx < s.opd.bLen.toNat) :=
  ⟨⟨buildState_addressOk, by decide⟩, addressOk_of (by decide), by decide⟩

theorem witness_reservedCodesReportBadOp :
    Instr.reserved6 = .reserved0 ∨ Instr.reserved6 = .reserved6 ∨ Instr.reserved6 = .reserved7 := by decide

/-- The smallest receive buffer and one data byte. -/
theorem witness_receivedFrameIsDecoded :
    let s := { State.reset with cfg := { Config.reference with rxMax := 32 } }
    ([1] : List Byte).length ≤ 65535 ∧ 1 ≤ ([1] : List Byte).length
      ∧ 30 + 2 * ([1] : List Byte).length ≤ s.cfg.rxMax := by decide

/-- V-E1's checksum, and another. -/
theorem witness_receivedWriteCommandIsDecoded :
    32 ≤ State.reset.cfg.rxMax ∧ 1 ≤ maxSnapIdx State.reset.cfg.snapIdx
      ∧ (0xEB : Byte) = lrc (headerBytes exampleAddr 0 0 1 2 1 1 ++ [1])
      ∧ (0xEC : Byte) ≠ lrc (headerBytes exampleAddr 0 0 1 2 1 1 ++ [1]) := by decide

theorem witness_frameReceiptIsADecode :
    isOperation turnOn = false ∧ 2 * (encode turnOn).length + 2 ≤ State.reset.cfg.rxMax := by decide

theorem witness_frameTooLongIsRefused :
    ({ State.reset with cfg := { Config.reference with rxMax := 33 } } : State).cfg.rxMax
      < 30 + 2 * ([0, 0] : List Byte).length := by decide

theorem witness_frameReceiptKeepsTheRest :
    isOperation minimumFrame = false ∧ ∃ t, exec minimumFrame State.reset = .next t :=
  ⟨by decide, _, (if_pos (by decide) : receiveFrame (encode minimumFrame) State.reset = _)⟩

theorem witness_operationsNeverStop : isOperation .frmBuild = true := by decide

theorem witness_operationsKeepOtherGroups :
    isOperation .frmWrcmd = true ∧ ∃ t, exec .frmWrcmd buildState = .next t := ⟨rfl, _, rfl⟩

/-- Two states that differ in their results only. -/
theorem witness_resultsDependOnOperandsOnly :
    let u := { buildState with status := .caller, cause := .addr }
    isOperation .frmBuild = true ∧ u.opd = buildState.opd ∧ u.written = buildState.written
      ∧ u.cfg = buildState.cfg ∧ u.epoch = buildState.epoch :=
  ⟨rfl, rfl, rfl, rfl, rfl⟩

/-- An event of each kind and none. -/
theorem witness_eventsMatchTheOutcome :
    After (exec .frmDecode (withRx (token "000000000000000000000000000100"))) (fun t => t.evCsum && !t.evMalf) = true
      ∧ After (exec .frmDecode (withRx [])) (fun t => t.evMalf && !t.evCsum) = true
      ∧ After (exec .frmDecode exampleState) (fun t => !t.evMalf && !t.evCsum) = true := by decide

theorem witness_stepsWithoutAnIssueAssertNoEvent :
    (withInbox []).inbox = [] ∧ (withInbox [.read .status]).inbox = .read .status :: []
      ∧ (∀ w, HostStep.read .status ≠ .issue w) ∧ (∀ v, HostStep.read .status ≠ .write .op v)
      ∧ ∃ t, step (withInbox [.read .status]) = .next t :=
  ⟨rfl, rfl, by simp, by simp, _, rfl⟩

/-- Both ways to be idle after a step: reset, and a step that is no operation on an idle block. -/
theorem witness_onlyResetGivesIdle :
    (∃ t, step { buildState with status := .ok, inbox := [.reset] } = .next t ∧ t.status = .idle)
      ∧ ∃ t, step (withInbox []) = .next t ∧ t.status = .idle :=
  ⟨⟨_, rfl, rfl⟩, _, rfl, rfl⟩

/-- The last element of each buffer. -/
theorem witness_bufferWriteStores :
    255 < 256
      ∧ ((withInbox [.write (.rx 131099) 255]).inbox = .write (.rx 131099) 255 :: [] ∧ 131099 < State.reset.cfg.rxMax)
      ∧ ((withInbox [.write (.buf 65534) 255]).inbox = .write (.buf 65534) 255 :: [] ∧ 65534 < State.reset.cfg.bufMax)
      ∧ ((withInbox [.write (.addr 31) 255]).inbox = .write (.addr 31) 255 :: [] ∧ 31 < State.reset.cfg.addrMax) := by
  decide

/-- Every clause at its largest value: the write is what the inbox holds, and the register has room for it. -/
theorem witness_operandRegisterWriteStores :
    ((withInbox [.write .rxLen 131100]).inbox = .write .rxLen 131100 :: [] ∧ 131100 ≤ State.reset.cfg.rxMax)
      ∧ ((withInbox [.write .bLen 65535]).inbox = .write .bLen 65535 :: [] ∧ 65535 ≤ State.reset.cfg.bufMax
        ∧ 65535 < 65536)
      ∧ ((withInbox [.write .aLen 32]).inbox = .write .aLen 32 :: [] ∧ 32 ≤ State.reset.cfg.addrMax)
      ∧ (withInbox [.write .claim 255]).inbox = .write .claim 255 :: []
      ∧ (withInbox [.write .fn 255]).inbox = .write .fn 255 :: []
      ∧ (withInbox [.write .reg 255]).inbox = .write .reg 255 :: []
      ∧ (withInbox [.write .cnt 255]).inbox = .write .cnt 255 :: []
      ∧ (withInbox [.write .val 255]).inbox = .write .val 255 :: [] ∧ 255 < 256 := by decide

/-- Every clause at its first value out of range. -/
theorem witness_hostAccessOutOfRangeStops :
    ((withInbox [.write .rxLen 131101]).inbox = .write .rxLen 131101 :: [] ∧ State.reset.cfg.rxMax < 131101)
      ∧ ((withInbox [.write .bLen 65536]).inbox = .write .bLen 65536 :: [] ∧ State.reset.cfg.bufMax < 65536)
      ∧ ((withInbox [.write .aLen 33]).inbox = .write .aLen 33 :: [] ∧ State.reset.cfg.addrMax < 33)
      ∧ ((withInbox [.write .claim 256]).inbox = .write .claim 256 :: [] ∧ ByteOperand State.reset.cfg .claim
        ∧ ByteOperand State.reset.cfg .fn ∧ ByteOperand State.reset.cfg .reg ∧ ByteOperand State.reset.cfg .cnt
        ∧ ByteOperand State.reset.cfg .val ∧ ByteOperand State.reset.cfg (.rx 131099)
        ∧ ByteOperand State.reset.cfg (.buf 65534) ∧ ByteOperand State.reset.cfg (.addr 31) ∧ 255 < 256)
      ∧ ((withInbox [.write .op 8]).inbox = .write .op 8 :: [] ∧ 7 < 8)
      ∧ ((withInbox [.write (.rx 131100) 256]).inbox = .write (.rx 131100) 256 :: []
        ∧ BeyondCapacity State.reset.cfg (.rx 131100) ∧ ¬ ByteOperand State.reset.cfg (.rx 131100)
        ∧ BeyondCapacity State.reset.cfg (.buf 65535) ∧ BeyondCapacity State.reset.cfg (.addr 32)
        ∧ BeyondCapacity State.reset.cfg (.hAddr 6) ∧ BeyondCapacity State.reset.cfg (.hRsvd 2)
        ∧ BeyondCapacity State.reset.cfg (.dseg 65535) ∧ BeyondCapacity State.reset.cfg (.tx 131100))
      ∧ (withInbox [.read (.tx 131100)]).inbox = .read (.tx 131100) :: []
      ∧ (withInbox [.read .op]).inbox = .read .op :: [] := by
  unfold ByteOperand BeyondCapacity
  decide

/-- An answer of the checksum engine in the LRC group, and a verify on top of it. -/
theorem witness_stepKeepsLrcGroupConsistent :
    let s := { withInbox [.issue [2]] with lrcg := { lrc := 0xFA, lrcV := true, mat := false, matV := false } }
    LrcConsistent s ∧ ∃ t, step s = .next t :=
  ⟨by unfold LrcConsistent; decide, _, rfl⟩

theorem witness_resultWriteHasNoEffect :
    (withInbox [.write (.tx 131099) 300]).inbox = .write (.tx 131099) 300 :: []
      ∧ isResultReg (.tx 131099) = true ∧ regExists Config.reference (.tx 131099) = true
      ∧ isResultReg .status = true := by decide

/-- A register of each kind: a length, the outcome, a header and a snapshot register, a data byte, the last
character of a frame. -/
theorem witness_readHasNoSideEffect :
    Shows exampleState 72 .rxLen ∧ Shows State.reset 0 .status ∧ Shows exampleState 0x7D (.rx 71)
      ∧ Shows (decodeRx exampleState) 1 .status ∧ Shows (decodeRx exampleState) 0x39 (.hAddr 5)
      ∧ Shows (decodeRx exampleState) 300 .sRoom ∧ Shows (decodeRx exampleState) 0x4F (.dseg 20)
      ∧ After (exec .frmWrcmd buildState) (fun t => readCell t.txg.tx 31 == some 0x7D && t.txg.txLen == 32) = true := by
  unfold Shows
  decide

/-- A register of each width without a value, and the last element of two buffers. -/
theorem witness_readHasNoSideEffect_without_value :
    (∀ v, ¬ Shows State.reset v .lrc) ∧ (∀ v, ¬ Shows State.reset v .mat) ∧ (∀ v, ¬ Shows State.reset v .hBc)
      ∧ (∀ v, ¬ Shows State.reset v (.dseg 65534)) ∧ ¬ BeyondCapacity State.reset.cfg (.dseg 65534)
      ∧ (∀ v, ¬ Shows State.reset v (.tx 131099)) ∧ ¬ BeyondCapacity State.reset.cfg (.tx 131099)
      ∧ (withInbox [.read .lrc]).inbox = .read .lrc :: [] ∧ ∃ t, step (withInbox [.read .lrc]) = .next t :=
  ⟨fun _ h => absurd h.1 (by decide), fun _ h => absurd h.1 (by decide), fun _ h => absurd h.1 (by decide),
    fun _ h => absurd h.1 (by decide), by unfold BeyondCapacity; decide, fun _ h => absurd h.2.1 (by decide),
    by unfold BeyondCapacity; decide, rfl, _, rfl⟩

/-- 70_reset_and_hazards.md R138: a read of no value makes the host program at fault. -/
theorem test_reads_no_value :
    hostAtFault (withInbox [.read .lrc]) = true ∧ hostAtFault (withInbox [.read .lrcV]) = false
      ∧ hostAtFault (withInbox [.read .claim]) = false := by decide

theorem witness_readHasNoSideEffect_completes :
    (withInbox [.read .txLen]).inbox = .read .txLen :: [] ∧ ∃ t, step (withInbox [.read .txLen]) = .next t :=
  ⟨rfl, _, rfl⟩

/-- A malformed token, a wrong checksum, and a frame without a snapshot. -/
theorem witness_failedDecodeLeavesNoReadableValue :
    After (exec .frmDecode (withRx [])) (fun t => t.status == .malformed) = true
      ∧ After (exec .frmDecode (withRx (token "000000000000000000000000000100"))) (fun t => t.status == .checksum) = true
      ∧ After (exec .frmDecode (withRx (token "000000000000000000000000000000"))) (fun t => t.status == .noSnap) = true
      ∧ isHeaderReg (.hAddr 5) = true ∧ regExists Config.reference (.hAddr 5) = true
      ∧ isHeaderReg (.dseg 65534) = true ∧ regExists Config.reference (.dseg 65534) = true
      ∧ isSnapReg .sRoom = true ∧ regExists Config.reference .sRoom = true := by decide

theorem witness_resetLeavesTheStatedValues :
    ({ exampleState with inbox := [.reset, .issue [1]] } : State).inbox = .reset :: [.issue [1]] := rfl

theorem witness_stepKeepsConfiguration : ∃ t, step (withInbox [.issue [1]]) = .next t := ⟨_, rfl⟩

/-- A decode of the example. -/
theorem witness_stepKeepsMemoriesCanonical :
    MemoriesCanonical { exampleState with inbox := [.issue [3]] }
      ∧ ∃ t, step { exampleState with inbox := [.issue [3]] } = .next t :=
  ⟨⟨cellsFrom_wf _ _, by decide, by decide, by decide, by decide⟩, _, rfl⟩

/-- A write of the last element of `BUF`. -/
theorem witness_stepKeepsCapacities :
    configOk Config.reference = true ∧ CapacityRespected (withInbox [.write (.buf 65534) 1])
      ∧ ∃ t, step (withInbox [.write (.buf 65534) 1]) = .next t := by
  refine ⟨by decide, ⟨by decide, by decide, by decide, by decide, ?_, ?_, ?_, ?_, ?_⟩, _, rfl⟩ <;> intro x hx <;> cases hx

theorem witness_stepKeepsOutcomeLegal :
    OutcomeLegal (withInbox [.issue [0]]) ∧ ∃ t, step (withInbox [.issue [0]]) = .next t :=
  ⟨.inl ⟨rfl, rfl⟩, _, rfl⟩

/-- What V-D32 leaves (a header, no snapshot), and a decode on top of it. -/
def decodedState : State :=
  { decodeRx (withRx (token "600194657C390000010201010001EB")) with inbox := [.issue [3]] }

theorem witness_stepKeepsDecodeGroupConsistent :
    decodedState.dec.hV = true ∧ DecodeConsistent decodedState ∧ ∃ t, step decodedState = .next t := by
  unfold DecodeConsistent
  exact ⟨by decide, by decide, _, rfl⟩

/-- The frame of V-E24 in `TX`, and a build on top of it. -/
theorem witness_stepKeepsTransmitBufferAFrame :
    let tok := token "600194657C3900000102010000ED"
    let s := { withInbox [.issue [4]] with txg := { tx := cellsFrom 0 tok, txLen := tok.length } }
    TransmitConsistent s ∧ ∃ t, step s = .next t :=
  ⟨⟨by decide, fun _ =>
    ⟨[0x60, 0x01, 0x94, 0x65, 0x7C, 0x39, 0, 0, 1, 2, 1, 0, 0, 0xED], by decide, by decide, by decide⟩⟩, _, rfl⟩

end Sys2Proof.Tests
end

/-! What an operation reads and what it reports, compared between two states (00_scope.md R4). -/

namespace Sys2Proof.Machine

/-- Two states report the same end of an operation: outcome and events (60_exceptions.md R115, R116, R121, R122). -/
def SameOutcome (t v : State) : Prop :=
  v.status = t.status ∧ v.cause = t.cause ∧ v.evCsum = t.evCsum ∧ v.evMalf = t.evMalf

/-- The free bytes of the buffers depend on the reset count alone (logs 6, 7). -/
theorem freeByte_congr {s u : State} (he : u.epoch = s.epoch) : freeByte u = freeByte s := by
  funext b i
  simp only [freeByte, he]

section
variable {s u : State} (ho : u.opd = s.opd) (he : u.epoch = s.epoch)
include ho he

theorem rxText_congr : rxText u = rxText s := by
  simp only [rxText, freeByte_congr he, ho]

theorem bufBytes_congr : bufBytes u = bufBytes s := by
  simp only [bufBytes, freeByte_congr he, ho]

theorem addrText_congr : addrText u = addrText s := by
  simp only [addrText, freeByte_congr he, ho]

end

theorem commitOutcome_sameOutcome (st : Status) (c : Cause) (s u : State) :
    SameOutcome (commitOutcome st c s) (commitOutcome st c u) := ⟨rfl, rfl, rfl, rfl⟩

/-- What a decode leaves of its own depends on how the parse ended alone: no earlier result is read. -/
theorem commitDecode_results (s u : State) (r : DecodeResult) :
    SameOutcome (commitDecode s r) (commitDecode u r) ∧ (commitDecode u r).dec = (commitDecode s r).dec := by
  cases r <;> exact ⟨commitOutcome_sameOutcome .., rfl⟩

/-- What a build leaves of its own depends on the token or the cause of the caller error alone. -/
theorem commitBuild_results (s u : State) (r : Except Cause (List Byte)) :
    SameOutcome (commitBuild s r) (commitBuild u r) ∧ (commitBuild u r).txg = (commitBuild s r).txg := by
  cases r <;> exact ⟨commitOutcome_sameOutcome .., rfl⟩

theorem decodeRx_results {s u : State} (ho : u.opd = s.opd) (hc : u.cfg = s.cfg) (he : u.epoch = s.epoch) :
    SameOutcome (decodeRx s) (decodeRx u) ∧ (decodeRx u).dec = (decodeRx s).dec := by
  unfold decodeRx
  rw [hc, rxText_congr ho he]
  exact commitDecode_results ..

/-- Settles O41: each operation commits a function of the operands it reads, by one case per operation. -/
theorem resultsDependOnOperandsOnly : Obligations.ResultsDependOnOperandsOnly := by
  intro i s u hi ho hw hc he
  have hop := operandByte_congr ho hw he
  have hbuf := bufBytes_congr ho he
  have haddr := addrText_congr ho he
  cases i with
  | lrcCompute =>
    exact ⟨_, _, rfl, rfl, rfl, rfl, rfl, rfl, fun _ => by simp [succeed, hbuf], nofun, nofun⟩
  | lrcVerify =>
    exact ⟨_, _, rfl, rfl, rfl, rfl, rfl, rfl, fun _ => by simp [succeed, hbuf, hop], nofun, nofun⟩
  | frmDecode =>
    obtain ⟨⟨hst, hca, hcs, hma⟩, hdec⟩ := decodeRx_results ho hc he
    exact ⟨_, _, rfl, rfl, hst, hca, hcs, hma, nofun, fun _ => hdec, nofun⟩
  | frmBuild =>
    obtain ⟨⟨hst, hca, hcs, hma⟩, htx⟩ := commitBuild_results s u
      (buildToken s.cfg (addrText s) (operandByte s .fn) (operandByte s .reg) (operandByte s .cnt) (bufBytes s))
    refine ⟨_, _, rfl, ?_, hst, hca, hcs, hma, nofun, nofun, fun _ => htx⟩
    simp only [exec, execFrmBuild, hc, haddr, hop, hbuf]
  | frmWrcmd =>
    obtain ⟨⟨hst, hca, hcs, hma⟩, htx⟩ := commitBuild_results s u
      (buildToken s.cfg (addrText s) 1 (operandByte s .reg) 1 [operandByte s .val])
    refine ⟨_, _, rfl, ?_, hst, hca, hcs, hma, nofun, nofun, fun _ => htx⟩
    simp only [exec, execFrmWrcmd, hc, haddr, hop]
  | reserved0 | reserved6 | reserved7 =>
    exact ⟨_, _, rfl, rfl, rfl, rfl, rfl, rfl, nofun, nofun, nofun⟩
  | frameWriteCommand | frameGeneral => cases hi

end Sys2Proof.Machine

/-! What a step can leave in the configuration, the operands and the three result groups, said once
(10_state.md R12, R13, R19 to R28). Every invariant below is a case analysis of it. -/

namespace Sys2Proof.Machine

/-- A built frame: the covered bytes, then their checksum (42_encode.md R100 line 6). -/
def builtFrame (a : Addr6) (fn reg cnt : Byte) (data : List Byte) : List Byte :=
  builtBytes a fn reg cnt data ++ [lrc (builtBytes a fn reg cnt data)]

/-- The transmit group that holds exactly a token (10_state.md R22). -/
def TxGroup.holding (tok : List Byte) : TxGroup := { tx := cellsFrom 0 tok, txLen := tok.length }

/-- The operands `o'` a step can leave, from the operands `o` (10_state.md R13). -/
inductive OperandsAfter (cfg : Config) (o o' : Operands) : Prop
  | kept (h : o' = o)
  | written (r : RegName) (v : Nat) (hex : regExists cfg r = true)
      (hle : ∀ m, writeLimit cfg r = some m → v ≤ m) (h : o' = writeOperand o v r)
  | presented (tok : List Byte) (hfit : tok.length ≤ cfg.rxMax)
      (h : o' = { o with rx := writeCells o.rx 0 tok, rxLen := tok.length })
  | reset (h : o' = Operands.reset)

/-- The LRC group `g'` a step can leave, from the group `g` (10_state.md R19). -/
inductive LrcAfter (g g' : LrcGroup) : Prop
  | kept (h : g' = g)
  | cleared (h : g' = LrcGroup.empty)
  | computed (b : Byte) (h : g' = { lrc := b, lrcV := true, mat := false, matV := false })
  | verified (b : Byte) (m : Bool) (h : g' = { lrc := b, lrcV := true, mat := m, matV := true })

/-- The decode group `d'` a step can leave, from the group `d` (10_state.md R20, R21). -/
inductive DecodeAfter (cfg : Config) (d d' : DecodeGroup) : Prop
  | kept (h : d' = d)
  | cleared (h : d' = DecodeGroup.empty)
  | header (v : HeaderVals) (hlen : v.data.length = v.bc.toNat) (hbc : v.bc.toNat ≤ maxSnapIdx cfg.snapIdx)
      (h : d' = headerGroup v)
  | snapshot (v : HeaderVals) (hlen : v.data.length = v.bc.toNat) (hbc : maxSnapIdx cfg.snapIdx < v.bc.toNat)
      (h : d' = snapGroup v (snapOf cfg.snapIdx v.data))

/-- The transmit group `g'` a step can leave, from the group `g` (10_state.md R22). -/
inductive TransmitAfter (cfg : Config) (g g' : TxGroup) : Prop
  | kept (h : g' = g)
  | cleared (h : g' = TxGroup.empty)
  | built (a : Addr6) (fn reg cnt : Byte) (data : List Byte) (hcount : data.length < 65536)
      (hfit : 30 + 2 * data.length ≤ cfg.txMax) (h : g' = .holding (tokenOf (builtFrame a fn reg cnt data)))

/-- Everything a step from `s` to `t` can do to the configuration, the operands and the result groups. -/
structure StepEffect (s t : State) : Prop where
  config   : t.cfg = s.cfg
  operands : OperandsAfter s.cfg s.opd t.opd
  lrcGroup : LrcAfter s.lrcg t.lrcg
  decode   : DecodeAfter s.cfg s.dec t.dec
  transmit : TransmitAfter s.cfg s.txg t.txg

/-- A decode fails and clears its group, or leaves the header of a verified token, with the snapshot iff the data
segment is long enough (41_decode.md R95). -/
theorem decodeRx_decodeAfter (s : State) : DecodeAfter s.cfg s.dec (decodeRx s).dec := by
  unfold decodeRx
  rcases parseToken_cases s.cfg (rxText s) with ⟨c, -, h⟩ | h | ⟨v, hlen, hbc, h⟩ | ⟨v, hlen, hbc, h⟩ <;> rw [h]
  · exact .cleared rfl
  · exact .cleared rfl
  · exact .header v hlen hbc rfl
  · exact .snapshot v hlen hbc rfl

/-- A build clears its group, or leaves exactly the token of the built frame (42_encode.md R100). -/
theorem commitBuild_transmitAfter (s : State) (addr : List Byte) (fn reg cnt : Byte) {data : List Byte}
    (hcount : data.length < 65536) :
    TransmitAfter s.cfg s.txg (commitBuild s (buildToken s.cfg addr fn reg cnt data)).txg := by
  rcases buildToken_cases s.cfg addr fn reg cnt data with ⟨-, h⟩ | ⟨-, -, h⟩ | ⟨-, hfit, h⟩ <;> rw [h]
  · exact .cleared rfl
  · exact .cleared rfl
  · exact .built _ fn reg cnt data hcount hfit rfl

theorem commitBuild_stepEffect (s : State) (addr : List Byte) (fn reg cnt : Byte) {data : List Byte}
    (hcount : data.length < 65536) : StepEffect s (commitBuild s (buildToken s.cfg addr fn reg cnt data)) := by
  obtain ⟨hcfg, hopd, hlrcg, hdec, -⟩ := commitBuild_frame s (buildToken s.cfg addr fn reg cnt data)
  exact ⟨hcfg, .kept hopd, .kept hlrcg, .kept hdec, commitBuild_transmitAfter s addr fn reg cnt hcount⟩

/-- An instruction writes its own result group, and a received frame the receive buffer too (10_state.md R12). -/
theorem exec_stepEffect {i : Instr} {s t : State} (h : exec i s = .next t) : StepEffect s t := by
  rcases exec_next_cases h with ⟨-, rfl⟩ | ⟨-, rfl⟩ | ⟨-, rfl⟩ | ⟨-, rfl⟩ | ⟨-, rfl⟩ | ⟨-, rfl⟩ | ⟨-, f, hfit, rfl⟩
  · exact ⟨rfl, .kept rfl, .computed _ rfl, .kept rfl, .kept rfl⟩
  · exact ⟨rfl, .kept rfl, .verified _ _ rfl, .kept rfl, .kept rfl⟩
  · obtain ⟨hcfg, hopd, hlrcg, htxg, -⟩ := decodeRx_frame s
    exact ⟨hcfg, .kept hopd, .kept hlrcg, decodeRx_decodeAfter s, .kept htxg⟩
  · exact commitBuild_stepEffect s _ _ _ _ (by simpa using s.opd.bLen.isLt)
  · exact commitBuild_stepEffect s _ _ _ _ (by simp)
  · exact ⟨rfl, .kept rfl, .kept rfl, .kept rfl, .kept rfl⟩
  · obtain ⟨hcfg, hopd, hlrcg, htxg, -⟩ := decodeRx_frame (presentToken (tokenOf f) s)
    exact ⟨hcfg, .presented (tokenOf f) (by simpa using hfit) hopd, .kept hlrcg,
      decodeRx_decodeAfter (presentToken (tokenOf f) s), .kept htxg⟩

/-- A host read changes no operand and no result register (20_memory.md R39). -/
theorem readRegister_stepEffect (r : RegName) (s : State) : StepEffect s (readRegister r s) := by
  rcases readRegister_cases r s with ⟨v, -, h⟩ | ⟨-, h⟩ <;> rw [h] <;>
    exact ⟨rfl, .kept rfl, .kept rfl, .kept rfl, .kept rfl⟩

theorem step_stepEffect {s t : State} (h : step s = .next t) : StepEffect s t := by
  rcases step_next_cases h with ⟨-, rfl⟩ | ⟨_, rest, i, -, -, hi⟩ | ⟨r, v, rest, -, -, hex, hle, rfl⟩
    | ⟨r, rest, -, -, -, rfl⟩ | ⟨rest, -, rfl⟩
  · exact ⟨rfl, .kept rfl, .kept rfl, .kept rfl, .kept rfl⟩
  · obtain ⟨hcfg, hopd, hlrcg, hdec, htxg⟩ := exec_stepEffect hi
    exact ⟨hcfg, hopd, hlrcg, hdec, htxg⟩
  · exact ⟨rfl, .written r v hex hle rfl, .kept rfl, .kept rfl, .kept rfl⟩
  · obtain ⟨hcfg, hopd, hlrcg, hdec, htxg⟩ := readRegister_stepEffect r { s with inbox := rest }
    exact ⟨hcfg, hopd, hlrcg, hdec, htxg⟩
  · exact ⟨rfl, .reset rfl, .cleared rfl, .cleared rfl, .cleared rfl⟩

end Sys2Proof.Machine

/-! Every step keeps the buffers canonical (10_state.md R23, R26, 20_memory.md R30; log 14). -/

namespace Sys2Proof.Machine

/-- The three operand buffers are in canonical form. -/
def OperandsCanonical (o : Operands) : Prop := Memory.wf o.rx ∧ Memory.wf o.buf ∧ Memory.wf o.addr

theorem memoriesCanonical_iff (s : State) : MemoriesCanonical s ↔
    OperandsCanonical s.opd ∧ Memory.wf s.dec.dseg ∧ Memory.wf s.txg.tx := by
  simp only [MemoriesCanonical, OperandsCanonical, and_assoc]

theorem writeOperand_canonical {o : Operands} (v : Nat) (r : RegName) (h : OperandsCanonical o) :
    OperandsCanonical (writeOperand o v r) := by
  obtain ⟨hrx, hbuf, haddr⟩ := h
  cases r with
  | rx i => exact ⟨writeCell_wf i _ hrx, hbuf, haddr⟩
  | buf i => exact ⟨hrx, writeCell_wf i _ hbuf, haddr⟩
  | addr i => exact ⟨hrx, hbuf, writeCell_wf i _ haddr⟩
  | _ => exact ⟨hrx, hbuf, haddr⟩

theorem OperandsAfter.canonical {cfg : Config} {o o' : Operands} (ho : OperandsAfter cfg o o')
    (h : OperandsCanonical o) : OperandsCanonical o' := by
  rcases ho with rfl | ⟨r, v, -, -, rfl⟩ | ⟨tok, -, rfl⟩ | rfl
  · exact h
  · exact writeOperand_canonical v r h
  · obtain ⟨hrx, hbuf, haddr⟩ := h
    exact ⟨writeCells_wf 0 tok hrx, hbuf, haddr⟩
  · exact ⟨.nil, .nil, .nil⟩

theorem DecodeAfter.dseg_wf {cfg : Config} {d d' : DecodeGroup} (hd : DecodeAfter cfg d d')
    (h : Memory.wf d.dseg) : Memory.wf d'.dseg := by
  rcases hd with rfl | rfl | ⟨v, -, -, rfl⟩ | ⟨v, -, -, rfl⟩
  · exact h
  · exact .nil
  · exact cellsFrom_wf 0 v.data
  · exact cellsFrom_wf 0 v.data

theorem TransmitAfter.tx_wf {cfg : Config} {g g' : TxGroup} (hg : TransmitAfter cfg g g')
    (h : Memory.wf g.tx) : Memory.wf g'.tx := by
  rcases hg with rfl | rfl | ⟨a, fn, reg, cnt, data, -, -, rfl⟩
  · exact h
  · exact .nil
  · exact cellsFrom_wf 0 _

/-- Settles O54: a buffer is kept, cleared, written cell by cell, or laid out anew from index 0. -/
theorem stepKeepsMemoriesCanonical : Obligations.StepKeepsMemoriesCanonical := by
  intro s t hs hst
  rw [memoriesCanonical_iff] at hs ⊢
  obtain ⟨hopd, hdseg, htx⟩ := hs
  have effect := step_stepEffect hst
  exact ⟨effect.operands.canonical hopd, effect.decode.dseg_wf hdseg, effect.transmit.tx_wf htx⟩

end Sys2Proof.Machine

/-! Every step keeps the decode group all or nothing (10_state.md R20, R21, R23, R27; logs 5, 14). -/

namespace Sys2Proof.Machine

theorem dsegBytes_headerGroup {v : HeaderVals} (hlen : v.data.length = v.bc.toNat) :
    dsegBytes (headerGroup v) = v.data := by
  rw [dsegBytes, headerGroup, ← hlen, readCells_cellsFrom]

theorem dsegBytes_snapGroup {v : HeaderVals} (x : SnapVals) (hlen : v.data.length = v.bc.toNat) :
    dsegBytes (snapGroup v x) = v.data := dsegBytes_headerGroup hlen

theorem decodeConsistent_of_empty {s : State} (hd : s.dec = DecodeGroup.empty) : DecodeConsistent s := by
  simp [DecodeConsistent, hd, DecodeGroup.empty, dropSnapshot]

/-- A header without a snapshot is consistent when the data are too short for one (41_decode.md R90). -/
theorem decodeConsistent_of_header {s : State} {v : HeaderVals} (hlen : v.data.length = v.bc.toNat)
    (hbc : v.bc.toNat ≤ maxSnapIdx s.cfg.snapIdx) (hd : s.dec = headerGroup v) : DecodeConsistent s := by
  have hbytes := dsegBytes_headerGroup hlen
  rw [DecodeConsistent, hd, hbytes]
  refine ⟨nofun, fun _ => rfl, fun _ => ⟨nofun, fun hlt => ?_⟩, fun _ => rfl, nofun⟩
  exact absurd hlt (Nat.not_lt.mpr hbc)

/-- A header with the snapshot of its own data is consistent (41_decode.md R91). -/
theorem decodeConsistent_of_snapshot {s : State} {v : HeaderVals} (hlen : v.data.length = v.bc.toNat)
    (hbc : maxSnapIdx s.cfg.snapIdx < v.bc.toNat) (hd : s.dec = snapGroup v (snapOf s.cfg.snapIdx v.data)) :
    DecodeConsistent s := by
  have hbytes := dsegBytes_snapGroup (snapOf s.cfg.snapIdx v.data) hlen
  rw [DecodeConsistent, hd, hbytes]
  exact ⟨nofun, fun _ => rfl, fun _ => ⟨fun _ => hbc, fun _ => rfl⟩, nofun, fun _ => rfl⟩

/-- Settles O58: the group is kept, cleared, or written as a whole from one verified token. -/
theorem stepKeepsDecodeGroupConsistent : Obligations.StepKeepsDecodeGroupConsistent := by
  intro s t hs hst
  obtain ⟨hcfg, -, -, hdec, -⟩ := step_stepEffect hst
  rw [← hcfg] at hdec
  rcases hdec with hd | hd | ⟨v, hlen, hbc, hd⟩ | ⟨v, hlen, hbc, hd⟩
  · simpa only [DecodeConsistent, hcfg, hd] using hs
  · exact decodeConsistent_of_empty hd
  · exact decodeConsistent_of_header hlen hbc hd
  · exact decodeConsistent_of_snapshot hlen hbc hd

end Sys2Proof.Machine

/-! After every step `TX` holds nothing or one frame that sums to 0 (10_state.md R22, R23, 42_encode.md R105). -/

namespace Sys2Proof.Machine

/-- Appending the checksum makes the sum 0 modulo 256 (40_lrc.md R73). -/
theorem byteSum_append_lrc (bs : List Byte) : byteSum (bs ++ [lrc bs]) % 256 = 0 := by
  simp only [byteSum_append, byteSum, lrc_toNat]
  omega

@[simp] theorem builtFrame_length (a : Addr6) (fn reg cnt : Byte) (data : List Byte) :
    (builtFrame a fn reg cnt data).length = 14 + data.length := by
  simp only [builtFrame, List.length_append, builtBytes_length, List.length_singleton]
  omega

/-- The byte-count field of a built frame is the length of its data (42_encode.md R103). -/
theorem builtFrame_byteCount (a : Addr6) (fn reg cnt : Byte) {data : List Byte} (hcount : data.length < 65536) :
    (le16 ((builtFrame a fn reg cnt data).getD 11 0) ((builtFrame a fn reg cnt data).getD 12 0)).toNat
      = data.length :=
  le16_lowByte_highByte data.length hcount

theorem builtFrame_isFrameToken (a : Addr6) (fn reg cnt : Byte) {data : List Byte} (hcount : data.length < 65536) :
    IsFrameToken (tokenOf (builtFrame a fn reg cnt data)) :=
  ⟨_, rfl, by rw [builtFrame_byteCount a fn reg cnt hcount, builtFrame_length], byteSum_append_lrc _⟩

@[simp] theorem txBytes_holding (tok : List Byte) : txBytes (.holding tok) = tok := readCells_cellsFrom _ 0 tok

/-- Settles O59: the group is kept, cleared, or holds exactly the token of a built frame. -/
theorem stepKeepsTransmitBufferAFrame : Obligations.StepKeepsTransmitBufferAFrame := by
  intro s t hs hst
  rcases (step_stepEffect hst).transmit with hg | hg | ⟨a, fn, reg, cnt, data, hcount, -, hg⟩
  · simpa only [TransmitConsistent, hg] using hs
  · rw [TransmitConsistent, hg]
    exact ⟨rfl, fun h => absurd rfl h⟩
  · rw [TransmitConsistent, hg, txBytes_holding]
    exact ⟨rfl, fun _ => builtFrame_isFrameToken a fn reg cnt hcount⟩

end Sys2Proof.Machine

/-! Every step keeps the lengths and cells within capacity (10_state.md R14 to R16, R22). -/

namespace Sys2Proof.Machine

theorem Below.nil (n : Nat) : Below n [] := nofun

theorem Below.writeCell {n : Nat} {m : Memory} (h : Below n m) {a : Nat} (ha : a < n) (b : Byte) :
    Below n (writeCell m a b) := fun x hx => by
  rcases mem_writeCell hx with rfl | hx
  · exact ha
  · exact h x hx

theorem Below.writeCells {n : Nat} {m : Memory} (h : Below n m) {bs : List Byte} (hbs : bs.length ≤ n) :
    Below n (writeCells m 0 bs) := fun x hx => by
  rcases mem_writeCells hx with hx | ⟨-, hlt⟩
  · exact h x hx
  · omega

theorem below_cellsFrom {n : Nat} {bs : List Byte} (hbs : bs.length ≤ n) : Below n (cellsFrom 0 bs) := fun x hx => by
  have hlt := (cellsFrom_bounds hx).2
  omega

/-- The operand lengths and cells are within their buffers' capacities. -/
structure OperandsWithin (cfg : Config) (o : Operands) : Prop where
  rxLen : o.rxLen ≤ cfg.rxMax
  bLen  : o.bLen.toNat ≤ cfg.bufMax
  aLen  : o.aLen ≤ cfg.addrMax
  rx    : Below cfg.rxMax o.rx
  buf   : Below cfg.bufMax o.buf
  addr  : Below cfg.addrMax o.addr

/-- The transmit length and cells are within `TX_MAX`. -/
def TransmitWithin (cfg : Config) (g : TxGroup) : Prop := g.txLen ≤ cfg.txMax ∧ Below cfg.txMax g.tx

theorem capacityRespected_iff (s : State) : CapacityRespected s ↔
    OperandsWithin s.cfg s.opd ∧ TransmitWithin s.cfg s.txg ∧ Below 65535 s.dec.dseg := by
  constructor
  · rintro ⟨hrxLen, hbLen, haLen, htxLen, hrx, hbuf, haddr, htx, hdseg⟩
    exact ⟨⟨hrxLen, hbLen, haLen, hrx, hbuf, haddr⟩, ⟨htxLen, htx⟩, hdseg⟩
  · rintro ⟨⟨hrxLen, hbLen, haLen, hrx, hbuf, haddr⟩, ⟨htxLen, htx⟩, hdseg⟩
    exact ⟨hrxLen, hbLen, haLen, htxLen, hrx, hbuf, haddr, htx, hdseg⟩

theorem operandsWithin_reset (cfg : Config) : OperandsWithin cfg Operands.reset :=
  ⟨Nat.zero_le _, Nat.zero_le _, Nat.zero_le _, .nil _, .nil _, .nil _⟩

theorem transmitWithin_empty (cfg : Config) : TransmitWithin cfg TxGroup.empty := ⟨Nat.zero_le _, .nil _⟩

/-- A host write that is not refused stays within the capacities. -/
theorem writeOperand_within {cfg : Config} {o : Operands} {r : RegName} {v : Nat} (h : OperandsWithin cfg o)
    (hex : regExists cfg r = true) (hle : ∀ m, writeLimit cfg r = some m → v ≤ m) :
    OperandsWithin cfg (writeOperand o v r) := by
  cases r with
  | rx i => exact { h with rx := h.rx.writeCell (of_decide_eq_true hex) _ }
  | buf i => exact { h with buf := h.buf.writeCell (of_decide_eq_true hex) _ }
  | addr i => exact { h with addr := h.addr.writeCell (of_decide_eq_true hex) _ }
  | rxLen => exact { h with rxLen := hle _ rfl }
  | bLen => exact { h with bLen := (BitVec.toNat_ofNat v 16).trans_le ((Nat.mod_le ..).trans (hle _ rfl)) }
  | aLen => exact { h with aLen := hle _ rfl }
  | _ => exact { h with }

theorem OperandsAfter.within {cfg : Config} {o o' : Operands} (ho : OperandsAfter cfg o o')
    (h : OperandsWithin cfg o) : OperandsWithin cfg o' := by
  rcases ho with rfl | ⟨r, v, hex, hle, rfl⟩ | ⟨tok, hfit, rfl⟩ | rfl
  · exact h
  · exact writeOperand_within h hex hle
  · exact { h with rxLen := hfit, rx := h.rx.writeCells hfit }
  · exact operandsWithin_reset cfg

theorem TransmitAfter.within {cfg : Config} {g g' : TxGroup} (hg : TransmitAfter cfg g g')
    (h : TransmitWithin cfg g) : TransmitWithin cfg g' := by
  rcases hg with rfl | rfl | ⟨a, fn, reg, cnt, data, -, hfit, rfl⟩
  · exact h
  · exact transmitWithin_empty cfg
  · have htok : (tokenOf (builtFrame a fn reg cnt data)).length ≤ cfg.txMax := by
      rw [tokenOf_length, builtFrame_length]
      omega
    exact ⟨htok, below_cellsFrom htok⟩

/-- The data segment has as many bytes as its 16-bit byte count says, so its indexes are below 65535. -/
theorem DecodeAfter.dseg_below {cfg : Config} {d d' : DecodeGroup} (hd : DecodeAfter cfg d d')
    (h : Below 65535 d.dseg) : Below 65535 d'.dseg := by
  have fits (v : HeaderVals) (hlen : v.data.length = v.bc.toNat) : Below 65535 (cellsFrom 0 v.data) :=
    below_cellsFrom (by have := v.bc.isLt; omega)
  rcases hd with rfl | rfl | ⟨v, hlen, -, rfl⟩ | ⟨v, hlen, -, rfl⟩
  · exact h
  · exact .nil _
  · exact fits v hlen
  · exact fits v hlen

/-- Settles O55: what a step writes was tested against the capacity it is written under. -/
theorem stepKeepsCapacities : Obligations.StepKeepsCapacities := by
  intro s t _ hs hst
  obtain ⟨hcfg, hopd, -, hdec, htxg⟩ := step_stepEffect hst
  rw [capacityRespected_iff] at hs ⊢
  obtain ⟨hoperands, htransmit, hdseg⟩ := hs
  rw [hcfg]
  exact ⟨hopd.within hoperands, htxg.within htransmit, hdec.dseg_below hdseg⟩

end Sys2Proof.Machine

/-! Every step keeps the LRC group consistent (10_state.md R19, R23; log 5), and the start state has every
invariant (10_state.md R26). -/

namespace Sys2Proof.Machine

/-- Settles O57: the group is kept, cleared, or written with LRC valid. -/
theorem stepKeepsLrcGroupConsistent : Obligations.StepKeepsLrcGroupConsistent := by
  intro s t hs hst
  rcases (step_stepEffect hst).lrcGroup with hg | hg | ⟨b, hg⟩ | ⟨b, m, hg⟩
  · simpa only [LrcConsistent, hg] using hs
  · rw [LrcConsistent, hg]
    exact ⟨fun _ => rfl, fun _ => rfl, nofun⟩
  · rw [LrcConsistent, hg]
    exact ⟨nofun, fun _ => rfl, nofun⟩
  · rw [LrcConsistent, hg]
    exact ⟨nofun, nofun, fun _ => rfl⟩

/-- Settles O52: the empty groups and buffers of the reset state meet each invariant. -/
theorem invariantsHoldAtReset : Obligations.InvariantsHoldAtReset where
  config    := by decide
  canonical := ⟨.nil, .nil, .nil, .nil, .nil⟩
  capacity  := (capacityRespected_iff _).mpr ⟨operandsWithin_reset _, transmitWithin_empty _, .nil _⟩
  outcome   := .inl ⟨rfl, rfl⟩
  decode    := decodeConsistent_of_empty rfl
  transmit  := ⟨rfl, fun h => absurd rfl h⟩
  lrcGroup  := ⟨fun _ => rfl, fun _ => rfl, nofun⟩

end Sys2Proof.Machine

/-! What an operation and the receipt of a frame leave alone (10_state.md R12, R13, R14). -/

namespace Sys2Proof.Machine

/-- The two frame rows are the receipt of their own bytes (log 2). -/
theorem exec_of_frame {i : Instr} (s : State) (hi : isOperation i = false) :
    exec i s = receiveFrame (encode i) s := by
  cases i with
  | frameWriteCommand | frameGeneral => rfl
  | _ => cases hi

/-- Settles O38: the receipt is a decode after the token is presented, and neither writes anything else. -/
theorem frameReceiptKeepsTheRest : Obligations.FrameReceiptKeepsTheRest := by
  intro i s t hi ht
  rw [exec_of_frame s hi] at ht
  rcases receiveFrame_cases (encode i) s with ⟨-, h⟩ | ⟨-, h⟩ <;> rw [h] at ht <;> cases ht
  obtain ⟨hcfg, hopd, hlrcg, htxg, hinbox, hread, hdraws, hepoch, hwritten⟩ :=
    decodeRx_frame (presentToken (tokenOf (encode i)) s)
  have hlen : (tokenOf (encode i)).length = 2 * (encode i).length + 2 := tokenOf_length _
  rw [hopd, presentToken_rxLen, hlen]
  refine ⟨by rw [← hlen]; rfl, rfl, fun a ha => ?_, hlrcg, htxg, hcfg, hinbox, hread, hdraws, hepoch, hwritten⟩
  rw [presentToken_rx, readCell_writeCells, if_neg (by omega)]

/-- Settles O40: by what each operation word has done. -/
theorem operationsKeepOtherGroups : Obligations.OperationsKeepOtherGroups := by
  intro i s t hi ht
  rcases exec_next_cases ht with ⟨rfl, rfl⟩ | ⟨rfl, rfl⟩ | ⟨rfl, rfl⟩ | ⟨rfl, rfl⟩ | ⟨rfl, rfl⟩ | ⟨-, rfl⟩ | ⟨hf, -⟩
  · exact ⟨rfl, rfl, rfl, rfl, rfl, rfl, rfl, fun h => absurd rfl h, fun _ => rfl, fun _ _ => rfl⟩
  · exact ⟨rfl, rfl, rfl, rfl, rfl, rfl, rfl, fun _ h => absurd rfl h, fun _ => rfl, fun _ _ => rfl⟩
  · obtain ⟨hcfg, hopd, hlrcg, htxg, hinbox, hread, hdraws, hepoch, hwritten⟩ := decodeRx_frame s
    exact ⟨hopd, hcfg, hinbox, hread, hdraws, hepoch, hwritten, fun _ _ => hlrcg, fun h => absurd rfl h,
      fun _ _ => htxg⟩
  · obtain ⟨hcfg, hopd, hlrcg, hdec, hinbox, hread, hdraws, hepoch, hwritten⟩ := commitBuild_frame s _
    exact ⟨hopd, hcfg, hinbox, hread, hdraws, hepoch, hwritten, fun _ _ => hlrcg, fun _ => hdec,
      fun h => absurd rfl h⟩
  · obtain ⟨hcfg, hopd, hlrcg, hdec, hinbox, hread, hdraws, hepoch, hwritten⟩ := commitBuild_frame s _
    exact ⟨hopd, hcfg, hinbox, hread, hdraws, hepoch, hwritten, fun _ _ => hlrcg, fun _ => hdec,
      fun _ h => absurd rfl h⟩
  · exact ⟨rfl, rfl, rfl, rfl, rfl, rfl, rfl, fun _ _ => rfl, fun _ => rfl, fun _ _ => rfl⟩
  · rw [hi] at hf
    cases hf

/-- Settles O37: a frame of `14 + bc` bytes has a token of `30 + 2*bc` characters. -/
theorem frameTooLongIsRefused : Obligations.FrameTooLongIsRefused := by
  intro s a s0 s1 f r n data c hlong
  rw [exec_of_frame s rfl]
  have hlen : (encode (.frameGeneral a s0 s1 f r n data c)).length = 14 + data.length :=
    Laws.EncodeLength.frameGeneral a s0 s1 f r n data c
  rcases receiveFrame_cases (encode (.frameGeneral a s0 s1 f r n data c)) s with ⟨hfit, -⟩ | ⟨-, h⟩
  · omega
  · exact h

end Sys2Proof.Machine

/-! What a step does with the host's next step: issue, write, read or reset (10_state.md R13, R17, R28; log 1). -/

namespace Sys2Proof.Machine

theorem step_of_inbox {s : State} {hd : HostStep} {rest : List HostStep} (hin : s.inbox = hd :: rest) :
    step s = hostStep hd { s with inbox := rest } := by
  rw [step, runInbox, hin]

theorem issueWord_of_decode {w : List Byte} {i : Instr} (hdec : decode w = .ok i) (s : State) :
    issueWord w s = exec i s := by
  rw [issueWord, hdec]

theorem hostWrite_absent {s : State} {r : RegName} (v : Nat) (hex : regExists s.cfg r = false) :
    hostWrite r v s = .fault (.noSuchElement r) := by
  simp [hostWrite, hex]

theorem hostWrite_over {s : State} {r : RegName} {v m : Nat} (hex : regExists s.cfg r = true)
    (hlim : writeLimit s.cfg r = some m) (hv : m < v) : hostWrite r v s = .refused (.notExpressible r) := by
  simp [hostWrite, hex, hlim, hv]

theorem hostWrite_op {s : State} {v : Nat} (hv : v ≤ 7) : hostWrite .op v s = issueWord [BitVec.ofNat 8 v] s := by
  simp [hostWrite, regExists, writeLimit, hv]

/-- The state after a host write that is no issue of an operation: the operand is stored, and nothing else of the
block changes but the event outputs. -/
def afterWrite (r : RegName) (v : Nat) (s : State) : State :=
  quiet { s with opd := writeOperand s.opd v r, written := noteWritten s.written r }

theorem hostWrite_stores {s : State} {r : RegName} {v : Nat} (hop : r ≠ .op) (hex : regExists s.cfg r = true)
    (hle : ∀ m, writeLimit s.cfg r = some m → v ≤ m) : hostWrite r v s = .next (afterWrite r v s) := by
  have hlim : (writeLimit s.cfg r).any (· < v) = false := by
    cases hm : writeLimit s.cfg r with
    | none => rfl
    | some m => simpa using hle m hm
  simp [hostWrite, hex, hlim, hop, afterWrite]

theorem step_write {s : State} {r : RegName} {v : Nat} {rest : List HostStep} (hin : s.inbox = .write r v :: rest)
    (hop : r ≠ .op) (hex : regExists s.cfg r = true) (hle : ∀ m, writeLimit s.cfg r = some m → v ≤ m) :
    step s = .next (afterWrite r v { s with inbox := rest }) :=
  (step_of_inbox hin).trans (hostWrite_stores hop hex hle)

theorem step_write_of_le {s : State} {r : RegName} {v m : Nat} {rest : List HostStep}
    (hin : s.inbox = .write r v :: rest) (hop : r ≠ .op) (hex : regExists s.cfg r = true)
    (hlim : writeLimit s.cfg r = some m) (hv : v ≤ m) : step s = .next (afterWrite r v { s with inbox := rest }) :=
  step_write hin hop hex fun _ hk => Option.some.inj (hlim.symm.trans hk) ▸ hv

theorem step_write_over {s : State} {r : RegName} {v m : Nat} {rest : List HostStep}
    (hin : s.inbox = .write r v :: rest) (hex : regExists s.cfg r = true)
    (hlim : writeLimit s.cfg r = some m) (hv : m < v) : step s = .refused (.notExpressible r) :=
  (step_of_inbox hin).trans (hostWrite_over hex hlim hv)

/-- Settles O4: the step hands the bytes to the decoder and runs what they decode to. -/
theorem stepRunsTheDecodedInstruction : Obligations.StepRunsTheDecodedInstruction :=
  fun _ _ _ _ hin hdec => (step_of_inbox hin).trans (issueWord_of_decode hdec _)

/-- Each of the eight values of `OP` is the code of an operation word (30_encoding.md R50, R60). -/
theorem decode_opValue {v : Nat} (hv : v < 8) : ∃ i, decode [BitVec.ofNat 8 v] = .ok i ∧ isOperation i = true := by
  have named : ∀ k : Fin 8, (decode [BitVec.ofNat 8 k]).toOption.any isOperation = true := by decide
  have hk := named ⟨v, hv⟩
  cases hd : decode [BitVec.ofNat 8 v] with
  | error e => simp [hd, Except.toOption] at hk
  | ok i => exact ⟨i, rfl, by simpa [hd, Except.toOption] using hk⟩

/-- Settles O5: a write to `OP` issues its one byte, which names an operation word. -/
theorem writingOpIssuesTheOperation : Obligations.WritingOpIssuesTheOperation := by
  intro s v rest hin hv
  obtain ⟨i, hdec, hop⟩ := decode_opValue hv
  refine ⟨i, hdec, hop, ?_⟩
  calc step s = hostWrite .op v { s with inbox := rest } := step_of_inbox hin
    _ = issueWord [BitVec.ofNat 8 v] { s with inbox := rest } := hostWrite_op (Nat.le_of_lt_succ hv)
    _ = exec i { s with inbox := rest } := issueWord_of_decode hdec _

end Sys2Proof.Machine

/-! A host write of an operand is held, read by operations, and changes nothing else (10_state.md R13, R28). -/

namespace Sys2Proof.Machine

/-- A buffer element read after a write, unwritten elements included (20_memory.md R39; log 6). -/
theorem getD_readCell_writeCell (m : Memory) (a c : Nat) (b d : Byte) :
    (readCell (writeCell m a b) c).getD d = if c = a then b else (readCell m c).getD d := by
  rw [readCell_writeCell, apply_ite (Option.getD · d), Option.getD_some]

section
variable (s : State) (i v j : Nat)

theorem rxElem_afterWrite :
    rxElem (afterWrite (.rx i) v s) j = if j = i then BitVec.ofNat 8 v else rxElem s j :=
  getD_readCell_writeCell ..

theorem bufElem_afterWrite :
    bufElem (afterWrite (.buf i) v s) j = if j = i then BitVec.ofNat 8 v else bufElem s j :=
  getD_readCell_writeCell ..

theorem addrElem_afterWrite :
    addrElem (afterWrite (.addr i) v s) j = if j = i then BitVec.ofNat 8 v else addrElem s j :=
  getD_readCell_writeCell ..

end

/-- Settles O45: the write is stored in its buffer, and the other elements are read as before. -/
theorem bufferWriteStores : Obligations.BufferWriteStores := by
  intro s i v rest hv
  have hle : v ≤ 255 := Nat.le_of_lt_succ hv
  refine ⟨fun hin hi => ?_, fun hin hi => ?_, fun hin hi => ?_⟩
  · exact ⟨_, step_write_of_le hin nofun (decide_eq_true hi) rfl hle, rfl, rfl,
      rxElem_afterWrite { s with inbox := rest } i v, rfl, rfl, rfl, rfl⟩
  · exact ⟨_, step_write_of_le hin nofun (decide_eq_true hi) rfl hle, rfl, rfl,
      bufElem_afterWrite { s with inbox := rest } i v, rfl, rfl, rfl, rfl⟩
  · exact ⟨_, step_write_of_le hin nofun (decide_eq_true hi) rfl hle, rfl, rfl,
      addrElem_afterWrite { s with inbox := rest } i v, rfl, rfl, rfl, rfl⟩

/-- An 8-bit operand read after a host write: what was written to it, else as before. -/
theorem operandByte_afterWrite (r : RegName) (v : Nat) (s : State) (q : OperandReg) :
    operandByte (afterWrite r v s) q = if r = byteRegName q then BitVec.ofNat 8 v else operandByte s q := by
  cases q <;> cases r <;> rfl

/-- Settles O46: each of the eight registers exists, has room for the value, and is the one a write stores to. -/
theorem operandRegisterWriteStores : Obligations.OperandRegisterWriteStores := by
  intro s v rest r o hin hcase
  obtain ⟨hop, hex, ⟨m, hlim, hv⟩, ho⟩ : r ≠ .op ∧ regExists s.cfg r = true
      ∧ (∃ m, writeLimit s.cfg r = some m ∧ v ≤ m) ∧ o = writeOperand s.opd v r := by
    rcases hcase with ⟨rfl, hv, ho⟩ | ⟨rfl, hv, -, ho⟩ | ⟨rfl, hv, ho⟩ | ⟨rfl, hv, ho⟩ | ⟨rfl, hv, ho⟩
      | ⟨rfl, hv, ho⟩ | ⟨rfl, hv, ho⟩ | ⟨rfl, hv, ho⟩
    · exact ⟨nofun, rfl, ⟨_, rfl, hv⟩, ho⟩
    · exact ⟨nofun, rfl, ⟨_, rfl, hv⟩, ho⟩
    · exact ⟨nofun, rfl, ⟨_, rfl, hv⟩, ho⟩
    all_goals exact ⟨nofun, rfl, ⟨255, rfl, Nat.le_of_lt_succ hv⟩, ho⟩
  exact ⟨_, step_write_of_le hin hop hex hlim hv, ho.symm, operandByte_afterWrite r v { s with inbox := rest },
    rfl, rfl, rfl, rfl, rfl, rfl⟩

/-- A result register takes any value, and a write to it stores nothing (10_state.md R28). -/
theorem writes_of_resultReg {r : RegName} (hr : isResultReg r = true) :
    r ≠ .op ∧ (∀ cfg, writeLimit cfg r = none) ∧ (∀ o v, writeOperand o v r = o) ∧ ∀ w, noteWritten w r = w := by
  cases r with
  | op | rx | rxLen | buf | bLen | claim | addr | aLen | fn | reg | cnt | val => cases hr
  | _ => exact ⟨nofun, fun _ => rfl, fun _ _ => rfl, fun _ => rfl⟩

/-- Settles O48: such a write is never refused, issues nothing and stores nothing. -/
theorem resultWriteHasNoEffect : Obligations.ResultWriteHasNoEffect := by
  intro s r v rest hin hr hex
  obtain ⟨hop, hlim, hopd, hwritten⟩ := writes_of_resultReg hr
  have hle : ∀ m, writeLimit s.cfg r = some m → v ≤ m := by simp [hlim]
  rw [step_write hin hop hex hle, afterWrite, hopd, hwritten, quiet]

end Sys2Proof.Machine

/-! What the host cannot express or reach stops the model by name (logs 8, 9). -/

namespace Sys2Proof.Machine

theorem regExists_eq_false_iff (cfg : Config) (r : RegName) : regExists cfg r = false ↔ BeyondCapacity cfg r := by
  cases r with
  | rx | buf | addr | hAddr | hRsvd | dseg | tx => exact decide_eq_false_iff_not.trans Nat.not_lt
  | _ => exact ⟨nofun, nofun⟩

/-- A byte operand exists and takes at most 255 (10_state.md R13). -/
theorem byteOperand_limit {cfg : Config} {r : RegName} (h : ByteOperand cfg r) :
    regExists cfg r = true ∧ writeLimit cfg r = some 255 := by
  cases r with
  | rx | buf | addr => exact ⟨decide_eq_true h, rfl⟩
  | claim | fn | reg | cnt | val => exact ⟨rfl, rfl⟩
  | _ => cases h

theorem hostRead_absent {s : State} {r : RegName} (hex : BeyondCapacity s.cfg r) :
    hostRead r s = .fault (.noSuchElement r) := by
  have hop : r ≠ .op := by
    rintro rfl
    exact hex
  simp [hostRead, hop, (regExists_eq_false_iff s.cfg r).mpr hex]

/-- Settles O47: by the limit of the register, or because the element does not exist. -/
theorem hostAccessOutOfRangeStops : Obligations.HostAccessOutOfRangeStops := by
  intro s v r rest
  refine ⟨fun hin hv => step_write_over hin rfl rfl hv, fun hin hv => step_write_over hin rfl rfl hv,
    fun hin hv => step_write_over hin rfl rfl hv, fun hin hbyte hv => ?_, fun hin hv => step_write_over hin rfl rfl hv,
    fun hin hfar => ?_, fun hin hfar => ?_, fun hin => step_of_inbox hin⟩
  · obtain ⟨hex, hlim⟩ := byteOperand_limit hbyte
    exact step_write_over hin hex hlim hv
  · exact (step_of_inbox hin).trans (hostWrite_absent v ((regExists_eq_false_iff s.cfg r).mpr hfar))
  · exact (step_of_inbox hin).trans (hostRead_absent hfar)

/-- Settles O51: the reset step is `resetBlock`, and both reset states are the stated values. -/
theorem resetLeavesTheStatedValues : Obligations.ResetLeavesTheStatedValues := by
  refine ⟨fun s rest hin => ?_, rfl, rfl, rfl, rfl, rfl, rfl, rfl, rfl, rfl, rfl, rfl, rfl⟩
  exact ⟨_, step_of_inbox hin, rfl, rfl, rfl, rfl, rfl, rfl, rfl, rfl, rfl, rfl, rfl, rfl, rfl, rfl, rfl, rfl⟩

end Sys2Proof.Machine

/-! A host read gives what the register shows under its valid indication, else a free value (20_memory.md R39,
10_state.md R23; log 8). -/

namespace Sys2Proof.Machine

theorem under_eq_some_iff {b : Bool} {x v : Nat} : under b x = some v ↔ b = true ∧ v = x := by
  cases b <;> simp [under, eq_comm]

theorem bit_eq_toNat (b : Bool) : bit b = b.toNat := by
  cases b <;> rfl

/-- The elements of `H_ADDR`, one by one (10_state.md R20). -/
theorem hAddr_elements (a : Addr6) (i v : Nat) :
    ((i = 0 ∧ v = a.a0.toNat) ∨ (i = 1 ∧ v = a.a1.toNat) ∨ (i = 2 ∧ v = a.a2.toNat)
        ∨ (i = 3 ∧ v = a.a3.toNat) ∨ (i = 4 ∧ v = a.a4.toNat) ∨ (i = 5 ∧ v = a.a5.toNat))
      ↔ i < 6 ∧ v = (addrByte a i).toNat := by
  match i with
  | 0 | 1 | 2 | 3 | 4 | 5 => simp [addrByte, Addr6.toList]
  | n + 6 => simp

/-- The elements of `H_RSVD`, one by one (10_state.md R20). -/
theorem hRsvd_elements (b0 b1 : Byte) (i v : Nat) :
    ((i = 0 ∧ v = b0.toNat) ∨ (i = 1 ∧ v = b1.toNat)) ↔ i < 2 ∧ v = (if i = 0 then b0 else b1).toNat := by
  match i with
  | 0 | 1 => simp
  | n + 2 => simp

/-- The valid indications of 70_reset_and_hazards.md R138 are those under which the model holds a value. -/
theorem shows_iff (s : State) (v : Nat) (r : RegName) :
    Shows s v r ↔ ¬ BeyondCapacity s.cfg r ∧ regValue s r = some v := by
  cases r with
  | op => simp [Shows, regValue]
  | rx | buf | addr => simp [Shows, BeyondCapacity, regValue, rxElem, bufElem, addrElem, eq_comm]
  | lrcV | matV | hV | sV => simp [Shows, BeyondCapacity, regValue, bit_eq_toNat, eq_comm]
  | lrc | mat | hFn | hReg | hCnt | hBc | sPower | sFan | sSetTemp | sSweep | sMode | sRoom =>
    simp [Shows, BeyondCapacity, regValue, under_eq_some_iff, bit_eq_toNat]
  | hAddr i =>
    simp only [Shows, BeyondCapacity, regValue, under_eq_some_iff, hAddr_elements, not_le]
    exact and_left_comm
  | hRsvd i =>
    simp only [Shows, BeyondCapacity, regValue, under_eq_some_iff, hRsvd_elements, not_le]
    exact and_left_comm
  | dseg i =>
    have hcap : i < s.dec.hBc.toNat → i < 65535 := by omega
    simp only [Shows, BeyondCapacity, regValue, not_le, Bool.and_eq_true, decide_eq_true_eq,
      Option.ite_none_right_eq_some, and_assoc]
    exact ⟨fun ⟨hvalid, hlen, hcell⟩ => ⟨hcap hlen, hvalid, hlen, hcell⟩, And.right⟩
  | tx i => simp only [Shows, BeyondCapacity, regValue, not_le, Option.ite_none_right_eq_some]
  | _ => simp [Shows, BeyondCapacity, regValue, eq_comm]

/-- An existing register shows nothing exactly where it holds no value (10_state.md R23). -/
theorem shows_nothing_iff {s : State} {r : RegName} (hex : ¬ BeyondCapacity s.cfg r) :
    (∀ v, ¬ Shows s v r) ↔ regValue s r = none := by
  simp [shows_iff, hex, Option.eq_none_iff_forall_ne_some]

/-- No register's value depends on the host's steps still to come. -/
theorem regValue_inbox (s : State) (rest : List HostStep) (r : RegName) :
    regValue { s with inbox := rest } r = regValue s r := by
  cases r <;> rfl

theorem step_read {s : State} {r : RegName} {rest : List HostStep} (hin : s.inbox = .read r :: rest)
    (hop : r ≠ .op) (hex : ¬ BeyondCapacity s.cfg r) :
    step s = .next (readRegister r { s with inbox := rest }) := by
  have hexists : regExists s.cfg r = true := by
    rwa [← regExists_eq_false_iff, Bool.not_eq_false] at hex
  rw [step_of_inbox hin]
  simp [hostStep, hostRead, hop, hexists]

theorem step_read_of_regValue {s : State} {r : RegName} {v : Nat} {rest : List HostStep}
    (hin : s.inbox = .read r :: rest) (hex : ¬ BeyondCapacity s.cfg r) (hv : regValue s r = some v) :
    step s = .next (quiet { s with inbox := rest, readData := v }) := by
  have hop : r ≠ .op := by
    rintro rfl
    cases hv
  rw [step_read hin hop hex, readRegister, regValue_inbox, hv]

theorem step_read_of_no_regValue {s : State} {r : RegName} {rest : List HostStep} (hin : s.inbox = .read r :: rest)
    (hop : r ≠ .op) (hex : ¬ BeyondCapacity s.cfg r) (hnone : regValue s r = none) :
    step s = .next (quiet { s with inbox := rest, readData := drawnValue s r, draws := s.draws + 1 }) := by
  rw [step_read hin hop hex, readRegister, regValue_inbox, hnone]
  rfl

/-- A read that completes is of an existing register other than `OP` (10_state.md R17; logs 8, 9). -/
theorem exists_of_step_read {s t : State} {r : RegName} {rest : List HostStep} (hin : s.inbox = .read r :: rest)
    (h : step s = .next t) : r ≠ .op ∧ ¬ BeyondCapacity s.cfg r := by
  rw [step_of_inbox hin] at h
  constructor
  · rintro rfl
    cases h
  · intro hfar
    cases (hostRead_absent (s := { s with inbox := rest }) hfar).symm.trans h

/-- Settles O49: a read gives the register's value or draws a free one, according to whether it shows a value. -/
theorem readHasNoSideEffect : Obligations.ReadHasNoSideEffect := by
  refine ⟨fun s r v rest hin hv => ?_, fun s r rest hin hop hex hnone => ?_, fun s t r rest hin h => ?_, rfl, rfl⟩
  · obtain ⟨hex, hval⟩ := (shows_iff s v r).mp hv
    exact step_read_of_regValue hin hex hval
  · exact step_read_of_no_regValue hin hop hex ((shows_nothing_iff hex).mp hnone)
  · obtain ⟨hop, hex⟩ := exists_of_step_read hin h
    refine ⟨hop, hex, ?_⟩
    cases hval : regValue s r with
    | some v =>
      obtain rfl := Host.Outcome.next.inj (h.symm.trans (step_read_of_regValue hin hex hval))
      exact ⟨.inl ⟨(shows_iff s v r).mpr ⟨hex, hval⟩, rfl⟩, rfl⟩
    | none =>
      obtain rfl := Host.Outcome.next.inj (h.symm.trans (step_read_of_no_regValue hin hop hex hval))
      exact ⟨.inr ⟨(shows_nothing_iff hex).mpr hval, rfl, rfl⟩, rfl⟩

end Sys2Proof.Machine

/-! A frame and its bytes name each other (20_memory.md R36, 30_encoding.md R50, R57; log 13). -/

namespace Sys2Proof.Machine

/-- Fourteen bytes and more that begin with a header are a frame if its byte count fits them (20_memory.md R36). -/
theorem decode_headerBytes (a : Addr6) (s0 s1 f r n : Byte) (k : Nat) (c0 : Byte) (rest : List Byte) :
    decode (headerBytes a s0 s1 f r n k ++ c0 :: rest) =
      let bc := (le16 (lowByte k) (highByte k)).toNat
      if rest.length = bc then .ok (frameInstr a s0 s1 f r n ((c0 :: rest).take bc) ((c0 :: rest).getD bc 0))
      else .error .frameLength := rfl

/-- The decoder reads a frame's bytes back into its fields (20_memory.md R36). -/
theorem decode_encode_frame (a : Addr6) (s0 s1 f r n : Byte) {data : List Byte} (c : Byte)
    (hdata : data.length ≤ 65535) :
    decode (encode (.frameGeneral a s0 s1 f r n data c)) = .ok (frameInstr a s0 s1 f r n data c) := by
  obtain ⟨c0, rest, hbody⟩ : ∃ c0 rest, data ++ [c] = c0 :: rest := List.exists_cons_of_ne_nil (by simp)
  have hrest : rest.length = data.length := by simpa using (congrArg List.length hbody).symm
  have hcount := le16_lowByte_highByte data.length (Nat.lt_succ_of_le hdata)
  rw [encode, List.append_assoc, hbody, decode_headerBytes, hcount, if_pos hrest, ← hbody]
  simp

theorem frameInstr_of_wellFormed {a : Addr6} {s0 s1 f r n : Byte} {data : List Byte} {c : Byte}
    (hwf : (Instr.frameGeneral a s0 s1 f r n data c).wellFormed = true) :
    data.length ≤ 65535 ∧ frameInstr a s0 s1 f r n data c = .frameGeneral a s0 s1 f r n data c := by
  obtain ⟨hlen, hshape⟩ : data.length ≤ 65535 ∧ isWriteCommand s0 s1 f n data.length = false := by
    simpa [Instr.wellFormed] using hwf
  exact ⟨hlen, by simp [frameInstr, hshape]⟩

/-- Settles O1: a code by the table, a frame by its bytes; a write command is the frame that has its shape. -/
theorem decodeOfEncode : Obligations.DecodeOfEncode := by
  intro i hwf
  cases i with
  | frameWriteCommand a r v c => exact decode_encode_frame a 0 0 1 r 1 (data := [v]) c (by simp)
  | frameGeneral a s0 s1 f r n data c =>
    obtain ⟨hlen, hrow⟩ := frameInstr_of_wellFormed hwf
    rw [decode_encode_frame a s0 s1 f r n c hlen, hrow]
  | _ => rfl

/-- Whichever row a frame belongs to, it is written as the same bytes and is well-formed (log 13). -/
theorem frameInstr_encode (a : Addr6) (s0 s1 f r n : Byte) {data : List Byte} (c : Byte)
    (hdata : data.length ≤ 65535) :
    encode (frameInstr a s0 s1 f r n data c) = encode (.frameGeneral a s0 s1 f r n data c)
      ∧ (frameInstr a s0 s1 f r n data c).wellFormed = true := by
  by_cases hshape : isWriteCommand s0 s1 f n data.length = true
  · obtain ⟨⟨⟨⟨rfl, rfl⟩, rfl⟩, rfl⟩, hone⟩ : (((s0 = 0 ∧ s1 = 0) ∧ f = 1) ∧ n = 1) ∧ data.length = 1 := by
      simpa [isWriteCommand] using hshape
    obtain ⟨v, rfl⟩ := List.length_eq_one_iff.mp hone
    exact ⟨rfl, rfl⟩
  · simp [frameInstr, hshape, Instr.wellFormed, hdata]

theorem lowByte_le16 (lo hi : Byte) : lowByte (le16 lo hi).toNat = lo := by
  apply BitVec.eq_of_toNat_eq
  rw [le16_toNat, lowByte, BitVec.toNat_ofNat]
  omega

theorem highByte_le16 (lo hi : Byte) : highByte (le16 lo hi).toNat = hi := by
  apply BitVec.eq_of_toNat_eq
  rw [le16_toNat, highByte, BitVec.toNat_ofNat]
  omega

/-- Bytes that decode as a frame are the header, the data its byte count announces, and the checksum byte of what
they decode to (20_memory.md R36). -/
theorem encode_of_decodeFrame {bs : List Byte} {i : Instr} (h : decodeFrame bs = .ok i) :
    encode i = bs ∧ i.wellFormed = true := by
  unfold decodeFrame at h
  split at h
  · next a0 a1 a2 a3 a4 a5 s0 s1 f r n lo hi c0 rest =>
    split at h
    · next hrest =>
      obtain rfl := Except.ok.inj h
      have hdata : ((c0 :: rest).take (le16 lo hi).toNat).length = (le16 lo hi).toNat := by simp [hrest]
      have hbody : (c0 :: rest).take (le16 lo hi).toNat ++ [(c0 :: rest).getD (le16 lo hi).toNat 0] = c0 :: rest := by
        rw [← hrest, List.getD_eq_getElem _ _ (by simp), List.take_append_getElem, List.take_of_length_le (by simp)]
      have hcount := (le16 lo hi).isLt
      obtain ⟨henc, hwf⟩ := frameInstr_encode ⟨a0, a1, a2, a3, a4, a5⟩ s0 s1 f r n
        (data := (c0 :: rest).take (le16 lo hi).toNat) ((c0 :: rest).getD (le16 lo hi).toNat 0) (by omega)
      refine ⟨henc.trans ?_, hwf⟩
      rw [encode, hdata, List.append_assoc, hbody, headerBytes, lowByte_le16, highByte_le16]
      rfl
    · cases h
  · cases h

/-- A byte that decodes is the code of what it decodes to (30_encoding.md R50, R60). -/
theorem encode_of_decodeOp {b : Byte} {i : Instr} (h : decodeOp b = .ok i) : encode i = [b] ∧ i.wellFormed = true := by
  unfold decodeOp at h
  split at h <;> cases h
  all_goals
    next hb => exact ⟨congrArg ([·]) (BitVec.eq_of_toNat_eq hb.symm), rfl⟩

/-- Settles O2: one byte is an operation code, more are a frame in its fields. -/
theorem encodeOfDecode : Obligations.EncodeOfDecode := by
  intro bs i h
  match bs, h with
  | [b], h => exact encode_of_decodeOp h
  | _ :: _ :: _, h => exact encode_of_decodeFrame h

end Sys2Proof.Machine

/-! The codes of `OP`: their decoding and the reserved ones (30_encoding.md R50, R60; log 12). -/

namespace Sys2Proof.Machine

/-- A byte of 8 or more is no value of `OP` (10_state.md R13; log 12). -/
theorem decodeOp_tooWide {b : Byte} (hb : 8 ≤ b.toNat) : decodeOp b = .error .opTooWide := by
  obtain ⟨k, hk⟩ := Nat.exists_eq_add_of_le' hb
  simp only [decodeOp, hk]

/-- Settles O3: each word by evaluation, and the bytes that are no value of `OP` by `decodeOp_tooWide`. -/
theorem operationWordsDecode : Obligations.OperationWordsDecode :=
  ⟨rfl, rfl, rfl, rfl, rfl, rfl, rfl, rfl, rfl, fun _ hb => decodeOp_tooWide hb⟩

/-- Settles O33: the three reserved codes share the failure commit of no group. -/
theorem reservedCodesReportBadOp : Obligations.ReservedCodesReportBadOp := by
  refine ⟨rfl, rfl, rfl, ?_⟩
  rintro s i (rfl | rfl | rfl) <;> rfl

end Sys2Proof.Machine

/-! The receipt of a frame that fits is the decode of its token (30_encoding.md R64, 41_decode.md R80; log 2). -/

namespace Sys2Proof.Machine

theorem exec_frame_of_fits {i : Instr} {s : State} (hi : isOperation i = false)
    (hfit : 2 * (encode i).length + 2 ≤ s.cfg.rxMax) :
    exec i s = .next (decodeRx (presentToken (tokenOf (encode i)) s)) := by
  rcases receiveFrame_cases (encode i) s with ⟨-, h⟩ | ⟨hlong, -⟩
  · rw [exec_of_frame s hi, h]
  · omega

/-- Settles O36: the receipt of a frame is defined as that decode. -/
theorem frameReceiptIsADecode : Obligations.FrameReceiptIsADecode :=
  fun _ _ hi hfit => ⟨_, exec_frame_of_fits hi hfit, rfl⟩

end Sys2Proof.Machine

/-! A write command is a build of one data byte (30_encoding.md R65, 42_encode.md R110). -/

namespace Sys2Proof.Machine

/-- The operands of the build that FRM.WRCMD stands for: function 01, count 01, and the one data byte `VAL`. -/
def asBuild (s : State) : State :=
  { s with
    opd := { s.opd with fn := 1, cnt := 1, buf := [(0, operandByte s .val)], bLen := 1 }
    written := { s.written with fn := true, cnt := true } }

/-- What a build commits depends on no operand but through the token. -/
theorem commitBuild_withOperands (s : State) (o : Operands) (w : Written) (r : Except Cause (List Byte)) :
    commitBuild s r = { commitBuild { s with opd := o, written := w } r with opd := s.opd, written := s.written } := by
  cases r <;> rfl

theorem execFrmBuild_asBuild (s : State) : exec .frmBuild (asBuild s) =
    .next (commitBuild (asBuild s) (buildToken s.cfg (addrText s) 1 (operandByte s .reg) 1 [operandByte s .val])) := rfl

/-- Settles O29: the build reads the operands FRM.WRCMD substitutes, so both commit the same token. -/
theorem writeCommandIsABuild : Obligations.WriteCommandIsABuild :=
  fun s => ⟨_, _, rfl, execFrmBuild_asBuild s, commitBuild_withOperands s _ _ _⟩

end Sys2Proof.Machine

/-! The letter case of a token's hex digits does not matter (30_encoding.md R66, 41_decode.md R87). -/

namespace Sys2Proof.Machine

theorem upper_zero : upper 0 = 0 := rfl

theorem upper_eq_openBrace_iff (c : Byte) : upper c = openBrace ↔ c = openBrace := by
  revert c; decide

theorem upper_eq_closeBrace_iff (c : Byte) : upper c = closeBrace ↔ c = closeBrace := by
  revert c; decide

theorem getD_map_upper (t : List Byte) (p : Nat) : (t.map upper).getD p 0 = upper (t.getD p 0) := by
  rw [← upper_zero, List.getD_map, upper_zero]

theorem stripped_map_upper (tok : List Byte) : stripped (tok.map upper) = (stripped tok).map upper := by
  simp [stripped, List.map_take]

theorem countIsHex_map_upper (t : List Byte) : countIsHex (t.map upper) = countIsHex t := by
  simp only [countIsHex, getD_map_upper, ishex_upper]

theorem all_ishex_map_upper (t : List Byte) : (t.map upper).all ishex = t.all ishex := by
  simp only [List.all_map, Function.comp_def, ishex_upper]

/-- A byte spelled by two hex digits has the same value in either case (20_memory.md R32). -/
theorem byteAt_map_upper {t : List Byte} {k : Nat} (hhi : ishex (t.getD (2 * k) 0) = true)
    (hlo : ishex (t.getD (2 * k + 1) 0) = true) : byteAt (t.map upper) k = byteAt t k := by
  rw [byteAt, getD_map_upper, getD_map_upper, hexval_upper _ hhi, hexval_upper _ hlo, byteAt]

/-- The four digits of the byte count (41_decode.md R83). -/
theorem countIsHex_iff (t : List Byte) : countIsHex t = true ↔ ishex (t.getD 22 0) = true
    ∧ ishex (t.getD 23 0) = true ∧ ishex (t.getD 24 0) = true ∧ ishex (t.getD 25 0) = true := by
  simp only [countIsHex, Bool.and_eq_true, and_assoc]

theorem byteCount_map_upper {t : List Byte} (h : countIsHex t = true) : byteCount (t.map upper) = byteCount t := by
  obtain ⟨h22, h23, h24, h25⟩ := (countIsHex_iff t).mp h
  rw [byteCount, byteAt_map_upper h22 h23, byteAt_map_upper h24 h25, byteCount]

/-- Every position of a span of hex digits is one. -/
theorem ishex_getD_of_all {t : List Byte} {n p : Nat} (hn : n ≤ t.length) (hall : (t.take n).all ishex = true)
    (hp : p < n) : ishex (t.getD p 0) = true := by
  rw [List.getD_eq_getElem _ _ (by omega)]
  exact List.all_eq_true.mp hall _ (List.mem_take_iff_getElem.mpr ⟨p, by omega, rfl⟩)

theorem frameBytes_map_upper {t : List Byte} (hcount : countIsHex t = true) (hspan : frameEnd t ≤ t.length)
    (hall : (t.take (frameEnd t)).all ishex = true) : frameBytes (t.map upper) = frameBytes t := by
  rw [frameBytes, byteCount_map_upper hcount, frameBytes]
  refine List.map_congr_left fun k hk => ?_
  have hend : 2 * k + 1 < frameEnd t := by
    have := List.mem_range.mp hk
    rw [frameEnd]
    omega
  exact byteAt_map_upper (ishex_getD_of_all hspan hall (by omega)) (ishex_getD_of_all hspan hall hend)

/-- Lines 4 to 12 of 41_decode.md R80 read a character only through the digit test, or as a digit that passed it. -/
theorem parseText_map_upper (cfg : Config) (t : List Byte) : parseText cfg (t.map upper) = parseText cfg t := by
  unfold parseText
  rw [List.length_map, countIsHex_map_upper]
  by_cases hcount : countIsHex t = true
  · have hbc := byteCount_map_upper hcount
    have hend : frameEnd (t.map upper) = frameEnd t := by rw [frameEnd, hbc, frameEnd]
    rw [hend, ← List.map_take, all_ishex_map_upper, hbc]
    by_cases hspan : frameEnd t ≤ t.length
    · by_cases hall : (t.take (frameEnd t)).all ishex = true
      · have hframe := frameBytes_map_upper hcount hspan hall
        rw [coveredBytes, claimedByte, hframe, hbc, coveredBytes, claimedByte]
      · simp only [hall, Bool.not_false, if_true]
    · have hover : frameEnd t > t.length := Nat.lt_of_not_le hspan
      simp only [if_pos hover]
  · simp only [hcount, Bool.not_false, if_true]

theorem parseToken_map_upper (cfg : Config) (tok : List Byte) :
    parseToken cfg (tok.map upper) = parseToken cfg tok := by
  unfold parseToken
  simp only [stripped_map_upper, parseText_map_upper, List.head?_map, List.getLast?_map, ne_eq,
    Option.map_eq_some_iff, upper_eq_openBrace_iff, upper_eq_closeBrace_iff, exists_eq_right]

/-- The token as its characters (10_state.md R14). -/
theorem rxText_eq_map (s : State) : rxText s = (List.range s.opd.rxLen).map (rxElem s) := by
  simp only [rxText, readCells_eq_map, Nat.zero_add]
  rfl

theorem rxText_eq_map_upper {s u : State} (hlen : u.opd.rxLen = s.opd.rxLen)
    (h : ∀ i, i < s.opd.rxLen → rxElem u i = upper (rxElem s i)) : rxText u = (rxText s).map upper := by
  rw [rxText_eq_map, rxText_eq_map, hlen, List.map_map]
  exact List.map_congr_left fun i hi => h i (List.mem_range.mp hi)

/-- Settles O23: the parse of the raised token is the parse of the token. -/
theorem decodeIgnoresLetterCase : Obligations.DecodeIgnoresLetterCase := by
  intro s u hcfg hlen h
  refine ⟨_, _, rfl, rfl, ?_⟩
  have hparse : parseToken u.cfg (rxText u) = parseToken s.cfg (rxText s) := by
    rw [hcfg, rxText_eq_map_upper hlen h, parseToken_map_upper]
  obtain ⟨⟨hst, hca, -⟩, hdec⟩ := commitDecode_results s u (parseToken s.cfg (rxText s))
  rw [decodeRx, decodeRx, hparse]
  exact ⟨hdec, hst, hca⟩

end Sys2Proof.Machine

/-! The parse of a token that spells a frame: its checksum is tested and its fields are the result (30_encoding.md
R51, 20_memory.md R36, 41_decode.md R80 lines 4 to 16). -/

namespace Sys2Proof.Machine

theorem ishex_getD_hexseq (f : List Byte) {p : Nat} (hp : p < 2 * f.length) : ishex ((hexseq f).getD p 0) = true := by
  rw [List.getD_eq_getElem _ _ (by simpa using hp)]
  exact List.all_eq_true.mp (hexseq_all_ishex f) _ (List.getElem_mem _)

theorem countIsHex_hexseq {f : List Byte} (hlen : 13 ≤ f.length) : countIsHex (hexseq f) = true := by
  have digit (p : Nat) (hp : p < 26) := ishex_getD_hexseq f (p := p) (by omega)
  exact (countIsHex_iff _).mpr ⟨digit 22 (by simp), digit 23 (by simp), digit 24 (by simp), digit 25 (by simp)⟩

theorem byteCount_hexseq {f : List Byte} (hlen : 13 ≤ f.length) :
    byteCount (hexseq f) = le16 (f.getD 11 0) (f.getD 12 0) := by
  rw [byteCount, byteAt_hexseq f 11 (by omega), byteAt_hexseq f 12 (by omega)]

/-- The frame bytes of a text that spells a frame of the announced length (41_decode.md R87). -/
theorem frameBytes_hexseq {f : List Byte} (hlen : f.length = 14 + (byteCount (hexseq f)).toNat) :
    frameBytes (hexseq f) = f := by
  rw [frameBytes, ← hlen]
  refine List.ext_getElem (by simp) fun k _ hk => ?_
  rw [List.getElem_map, List.getElem_range, byteAt_hexseq f k hk, List.getD_eq_getElem _ _ hk]

/-- The delimiters of a token of ours are there (41_decode.md R81). -/
theorem parseToken_tokenOf (cfg : Config) (f : List Byte) : parseToken cfg (tokenOf f) = parseText cfg (hexseq f) := by
  have hlast : (tokenOf f).getLast? = some closeBrace := List.getLast?_concat (l := openBrace :: hexseq f)
  rw [parseToken, if_neg (by simp [tokenOf]), if_neg (by simp [hlast]), stripped_tokenOf]

/-- A text that spells a frame of the announced length with data passes every test up to the checksum. -/
theorem parseText_hexseq (cfg : Config) {f : List Byte} {bc : Half} (hbc : le16 (f.getD 11 0) (f.getD 12 0) = bc)
    (hlen : f.length = 14 + bc.toNat) (hdata : 1 ≤ bc.toNat) :
    parseText cfg (hexseq f) =
      if lrc (f.take (13 + bc.toNat)) ≠ f.getD (13 + bc.toNat) 0 then .checksum
      else parseVerified cfg (headerOf f bc) := by
  have hcount : byteCount (hexseq f) = bc := by rw [byteCount_hexseq (by omega), hbc]
  have hframe : frameBytes (hexseq f) = f := frameBytes_hexseq (by rw [hcount, hlen])
  have hend : frameEnd (hexseq f) = (hexseq f).length := by
    rw [frameEnd, hcount, hexseq_length]
    omega
  have hshort : ¬ (hexseq f).length < 30 := by
    rw [hexseq_length]
    omega
  have hhex : countIsHex (hexseq f) = true := countIsHex_hexseq (by omega)
  have hall : ((hexseq f).take (hexseq f).length).all ishex = true := by rw [List.take_length, hexseq_all_ishex]
  rw [parseText, if_neg hshort, if_neg (by simp [hhex]), hend, if_neg (lt_irrefl _), if_neg (by simp),
    if_neg (by rw [hall]; decide), coveredBytes, claimedByte, hframe, hcount]

/-- The fields of a general frame are read back from its bytes (41_decode.md R89). -/
theorem headerOf_frame (a : Addr6) (s0 s1 f r n : Byte) {data : List Byte} (c : Byte) {bc : Half}
    (hbc : bc.toNat = data.length) : headerOf (encode (.frameGeneral a s0 s1 f r n data c)) bc =
      ⟨a, s0, s1, f, r, n, bc, data⟩ := by
  have htake : (data ++ [c]).take bc.toNat = data := by rw [hbc, List.take_left]
  simp [encode, headerBytes, Addr6.toList, headerOf, htake]

/-- The parse of a frame's token: a checksum failure, or the frame's own fields (41_decode.md R88, R89). -/
theorem parseToken_frame (cfg : Config) (a : Addr6) (s0 s1 f r n : Byte) {data : List Byte} (c : Byte)
    (hdata : 1 ≤ data.length) (hfits : data.length ≤ 65535) :
    parseToken cfg (tokenOf (encode (.frameGeneral a s0 s1 f r n data c))) =
      if lrc (headerBytes a s0 s1 f r n data.length ++ data) ≠ c then .checksum
      else parseVerified cfg ⟨a, s0, s1, f, r, n, BitVec.ofNat 16 data.length, data⟩ := by
  have hbc : (BitVec.ofNat 16 data.length).toNat = data.length := by
    rw [BitVec.toNat_ofNat]
    omega
  have hcount : le16 ((encode (.frameGeneral a s0 s1 f r n data c)).getD 11 0)
      ((encode (.frameGeneral a s0 s1 f r n data c)).getD 12 0) = BitVec.ofNat 16 data.length :=
    BitVec.eq_of_toNat_eq ((le16_lowByte_highByte data.length (by omega)).trans hbc.symm)
  have hlen : (encode (.frameGeneral a s0 s1 f r n data c)).length = 14 + data.length :=
    Laws.EncodeLength.frameGeneral a s0 s1 f r n data c
  have hcovered : 13 + data.length = (headerBytes a s0 s1 f r n data.length ++ data).length := by simp
  have hclaimed : (headerBytes a s0 s1 f r n data.length ++ data ++ [c]).getD (13 + data.length) 0 = c := by
    rw [hcovered, List.getD_append_right _ _ _ _ le_rfl, Nat.sub_self]
    rfl
  have htake : (headerBytes a s0 s1 f r n data.length ++ data ++ [c]).take (13 + data.length)
      = headerBytes a s0 s1 f r n data.length ++ data := by rw [hcovered, List.take_left]
  rw [parseToken_tokenOf, parseText_hexseq cfg hcount (by rw [hlen, hbc]) (by omega),
    headerOf_frame a s0 s1 f r n c hbc, hbc, encode, htake, hclaimed]

end Sys2Proof.Machine

/-! The receipt of a write-command frame (30_encoding.md R57, 41_decode.md R88, R90; log 2). -/

namespace Sys2Proof.Machine

theorem decodeRx_presentToken (tok : List Byte) (s : State) :
    decodeRx (presentToken tok s) = commitDecode (presentToken tok s) (parseToken s.cfg tok) := by
  rw [decodeRx, rxText_presentToken, presentToken_cfg]

/-- The token of a write-command frame parses as the frame of one data byte that it is (log 13). -/
theorem parseToken_writeCommand {cfg : Config} (a : Addr6) (r v c : Byte) (hsnap : 1 ≤ maxSnapIdx cfg.snapIdx) :
    parseToken cfg (tokenOf (encode (.frameWriteCommand a r v c))) =
      if lrc (headerBytes a 0 0 1 r 1 1 ++ [v]) ≠ c then .checksum else .noSnap ⟨a, 0, 0, 1, r, 1, 1, [v]⟩ := by
  have hnoSnap : parseVerified cfg ⟨a, 0, 0, 1, r, 1, 1, [v]⟩ = .noSnap ⟨a, 0, 0, 1, r, 1, 1, [v]⟩ := if_pos hsnap
  rw [← hnoSnap]
  exact parseToken_frame cfg a 0 0 1 r 1 (data := [v]) c (by simp) (by simp)

/-- Settles O35: one data byte holds no snapshot, so the receipt ends at the header or at the checksum. -/
theorem receivedWriteCommandIsDecoded : Obligations.ReceivedWriteCommandIsDecoded := by
  intro s a r v c hrx hsnap
  have hparse := parseToken_writeCommand a r v c hsnap
  have hlen : (tokenOf (encode (.frameWriteCommand a r v c))).length = 32 := tokenOf_length _
  have hexec := exec_frame_of_fits (i := .frameWriteCommand a r v c) (s := s) rfl hrx
  generalize tokenOf (encode (.frameWriteCommand a r v c)) = tok at hparse hlen hexec
  obtain ⟨hcfg, hopd, hlrcg, htxg, -⟩ := decodeRx_frame (presentToken tok s)
  have hdecode := decodeRx_presentToken tok s
  rw [hparse] at hdecode
  refine ⟨_, hexec, hcfg, hlrcg, htxg, by rw [hopd, presentToken_rxLen, hlen], fun hc => ?_, fun hc => ?_⟩
  · rw [hdecode, if_neg (not_not.mpr hc.symm)]
    exact ⟨rfl, rfl, rfl, rfl, rfl, rfl, rfl⟩
  · rw [hdecode, if_pos hc.symm]
    exact ⟨rfl, rfl, rfl, rfl⟩

end Sys2Proof.Machine

/-! The checksum as arithmetic modulo 256: the formula, the negated byte sum and its laws (40_lrc.md R70, R73, R76). -/

namespace Sys2Proof.Machine

/-- Settles O6: the formula of R70, on the sum the statement names. -/
theorem checksumIsTheFormula : Obligations.ChecksumIsTheFormula := by
  intro bs
  rw [lrc_toNat, byteSum_eq_sum]
  omega

/-- A byte brings the sum to 0 modulo 256 exactly if it is the checksum (40_lrc.md R73). -/
theorem byteSum_add_mod_eq_zero_iff (bs : List Byte) (c : Byte) :
    (byteSum bs + c.toNat) % 256 = 0 ↔ c = lrc bs := by
  have hc : c.toNat < 256 := c.isLt
  rw [← BitVec.toNat_inj, lrc_toNat]
  omega

/-- Settles O7: both parts are the equivalence, the first at the checksum itself. -/
theorem checksumMakesTheSumZero : Obligations.ChecksumMakesTheSumZero := by
  intro bs
  rw [← byteSum_eq_sum]
  exact ⟨(byteSum_add_mod_eq_zero_iff bs _).mpr rfl, byteSum_add_mod_eq_zero_iff bs⟩

/-- The wrapping sum of the bytes is their sum modulo 256 (40_lrc.md R76 (iii)). -/
theorem toNat_sum (bs : List Byte) : bs.sum.toNat = byteSum bs % 256 := by
  induction bs with
  | nil => rfl
  | cons b bs ih =>
    rw [List.sum_cons, BitVec.toNat_add, ih, byteSum]
    omega

/-- The checksum is the negation of the wrapping sum, from which the laws of R76 follow (40_lrc.md R76 (iii)). -/
theorem lrc_eq_neg_sum (bs : List Byte) : lrc bs = -bs.sum := by
  apply BitVec.eq_of_toNat_eq
  rw [BitVec.toNat_neg, lrc_toNat, toNat_sum]
  omega

theorem lrc_append (bs cs : List Byte) : lrc (bs ++ cs) = lrc bs + lrc cs := by
  rw [lrc_eq_neg_sum, List.sum_append, neg_add, ← lrc_eq_neg_sum, ← lrc_eq_neg_sum]

theorem lrc_perm {bs cs : List Byte} (h : bs.Perm cs) : lrc bs = lrc cs := by
  rw [lrc_eq_neg_sum, h.sum_eq, ← lrc_eq_neg_sum]

theorem lrc_filter_ne_zero (bs : List Byte) : lrc (bs.filter (· ≠ 0)) = lrc bs := by
  have hsum : (bs.filter (· ≠ 0)).sum = bs.sum := by
    simpa only [ne_eq, decide_not, bne, beq_eq_decide] using List.sum_filter_bne_zero bs
  rw [lrc_eq_neg_sum, hsum, ← lrc_eq_neg_sum]

/-- One byte of another value changes the checksum: the sum moves by their difference (40_lrc.md R76 (vi)). -/
theorem lrc_set_ne {bs : List Byte} {i : Nat} {b : Byte} (hi : i < bs.length) (hb : b ≠ bs.getD i 0) :
    lrc (bs.set i b) ≠ lrc bs := by
  rw [List.getD_eq_getElem _ _ hi] at hb
  rw [lrc_eq_neg_sum, lrc_eq_neg_sum, List.sum_set', dif_pos hi, Ne, neg_inj, add_eq_left, neg_add_eq_zero]
  exact hb.symm

/-- Settles O8: the first two laws are arithmetic on the formula, the others properties of the negated sum. -/
theorem checksumLaws : Obligations.ChecksumLaws := by
  refine ⟨fun bs => ?_, fun bs hsum => ?_, fun bs => ?_, lrc_append, fun _ _ => lrc_perm, lrc_filter_ne_zero,
    fun _ _ _ => lrc_set_ne⟩
  · rw [lrc_toNat, byteSum_eq_sum]
    omega
  · exact ((checksumMakesTheSumZero bs).2 0 |>.mp hsum).symm
  · rw [lrc_eq_neg_sum, List.sum_eq_foldl]

end Sys2Proof.Machine

/-! The text form of verify: two characters are the checksum's digits exactly if they are hex digits that spell its
value (40_lrc.md R74; log 23). -/

namespace Sys2Proof.Machine

theorem hexchar_inj {u v : Nat} (hu : u < 16) (hv : v < 16) : hexchar u = hexchar v ↔ u = v :=
  ⟨fun h => by rw [← hexval_hexchar u hu, h, hexval_hexchar v hv], congrArg hexchar⟩

/-- Two hex digits, raised, are the digits of a byte exactly if they spell it (20_memory.md R32). -/
theorem hex2_eq_upper_iff (b : Byte) {c0 c1 : Byte} (h0 : ishex c0 = true) (h1 : ishex c1 = true) :
    hex2 b = [upper c0, upper c1] ↔ b.toNat = 16 * hexval c0 + hexval c1 := by
  have hb : b.toNat < 256 := b.isLt
  have hv0 := hexval_lt_of_ishex c0 h0
  have hv1 := hexval_lt_of_ishex c1 h1
  rw [← hexchar_hexval c0 h0, ← hexchar_hexval c1 h1, hex2, List.cons.injEq, List.singleton_inj,
    hexchar_inj (by omega) hv0, hexchar_inj (by omega) hv1]
  omega

/-- The digits of a byte are hex digits, so only hex digits can match them (30_encoding.md R52). -/
theorem ishex_of_hex2_eq_upper {b c0 c1 : Byte} (h : hex2 b = [upper c0, upper c1]) :
    ishex c0 = true ∧ ishex c1 = true := by
  have hdigits : (hexseq [b]).all ishex = true := hexseq_all_ishex [b]
  simpa [hexseq, h, ishex_upper] using hdigits

theorem charsMatch_iff (bs : List Byte) (c0 c1 : Byte) :
    charsMatch bs c0 c1 = true ↔ hex2 (lrc bs) = [upper c0, upper c1] := beq_iff_eq

/-- Settles O9: on two digits the comparison of characters is that of values; anything else matches no digit. -/
theorem textVerifyIsByteVerify : Obligations.TextVerifyIsByteVerify := by
  intro bs c0 c1
  constructor
  · intro h0 h1
    rw [verifyText, if_pos (by simp [h0, h1]), Option.some_inj, Bool.eq_iff_iff, charsMatch_iff, decide_eq_true_iff]
    exact hex2_eq_upper_iff (lrc bs) h0 h1
  · intro hnot
    have hmatch : ¬ charsMatch bs c0 c1 = true := fun h => hnot (ishex_of_hex2_eq_upper ((charsMatch_iff ..).mp h))
    exact ⟨if_neg (by simpa using hnot), eq_false_of_ne_true hmatch⟩

end Sys2Proof.Machine

/-! The two operations of the Checksum Engine (40_lrc.md R71, R72, R75). -/

namespace Sys2Proof.Machine

/-- `BUF[0 .. BLEN-1]` as the operations read it, element by element (10_state.md R15). -/
theorem bufBytes_eq_bufSeq (s : State) : bufBytes s = bufSeq s := by
  simp only [bufBytes, readCells_eq_map, Nat.zero_add]
  rfl

/-- Settles O10: the arm commits the checksum of the bytes read, and nothing else. -/
theorem computeResult : Obligations.ComputeResult :=
  ⟨rfl, fun s => ⟨_, rfl, rfl, congrArg lrc (bufBytes_eq_bufSeq s), rfl, rfl⟩⟩

/-- Settles O11: the arm commits the checksum of the bytes read and its comparison with the claim. -/
theorem verifyResult : Obligations.VerifyResult := by
  refine ⟨rfl, fun s => ?_⟩
  rw [← bufBytes_eq_bufSeq]
  rfl

/-- Settles O12: the write to `CLAIM` leaves `BUF` and `BLEN`, so verify computes the byte it compares with. -/
theorem computeThenVerifyMatches : Obligations.ComputeThenVerifyMatches := by
  intro s
  obtain ⟨t, hcompute, ht, hlrc, -⟩ := computeResult.2 s
  have hwrite : hostWrite .claim t.lrcg.lrc.toNat t = .next (afterWrite .claim t.lrcg.lrc.toNat t) :=
    hostWrite_stores nofun rfl fun m hm => Option.some.inj hm ▸ Nat.le_of_lt_succ t.lrcg.lrc.isLt
  have hbuf : bufSeq (afterWrite .claim t.lrcg.lrc.toNat t) = bufSeq s := by
    rw [ht]
    rfl
  have hclaim : operandByte (afterWrite .claim t.lrcg.lrc.toNat t) .claim = lrc (bufSeq s) :=
    calc operandByte (afterWrite .claim t.lrcg.lrc.toNat t) .claim
      _ = BitVec.ofNat 8 t.lrcg.lrc.toNat := operandByte_afterWrite ..
      _ = t.lrcg.lrc := BitVec.eq_of_toNat_eq (Nat.mod_eq_of_lt t.lrcg.lrc.isLt)
      _ = lrc (bufSeq s) := hlrc
  exact ⟨t, _, _, hcompute, hwrite, verifyResult.2 _, rfl, decide_eq_true (by rw [hbuf, hclaim])⟩

end Sys2Proof.Machine

/-! The parse of the token in `RX`, line by line of 41_decode.md R80, up to the checksum. -/

namespace Sys2Proof.Machine

/-- With both delimiters the stripped text is parsed (41_decode.md R81). -/
theorem parseToken_of_delimited {s : State} (h : Delimited s) :
    parseToken s.cfg (rxText s) = parseText s.cfg (stripped (rxText s)) := by
  obtain ⟨hlen, hopen, hclose⟩ := h
  have hhead : (rxText s).head? = some openBrace := by rw [rxText_head?, if_neg hlen, hopen]
  have hlast : (rxText s).getLast? = some closeBrace := by rw [rxText_getLast?, if_neg hlen, hclose]
  rw [parseToken, if_neg (not_not.mpr hhead), if_neg (not_not.mpr hlast)]

/-- The digits of the byte count, position by position (41_decode.md R83). -/
theorem countIsHex_rxText {s : State} (hlen : 30 ≤ s.opd.rxLen - 2)
    (hdigits : ∀ p, 22 ≤ p → p < 26 → ishex (pos s p) = true) : countIsHex (stripped (rxText s)) = true := by
  have digit (p : Nat) (h1 : 22 ≤ p) (h2 : p < 26) : ishex ((stripped (rxText s)).getD p 0) = true := by
    rw [stripped_rxText s (by omega)]
    exact hdigits p h1 h2
  exact (countIsHex_iff _).mpr ⟨digit 22 (by simp) (by simp), digit 23 (by simp) (by simp),
    digit 24 (by simp) (by simp), digit 25 (by simp) (by simp)⟩

theorem frameEnd_rxText {s : State} (hlen : 30 ≤ s.opd.rxLen - 2) :
    frameEnd (stripped (rxText s)) = 28 + 2 * tokenCount s := by
  rw [frameEnd, byteCount_rxText s hlen]

/-- A well-formed frame passes lines 1 to 10, so its checksum decides (41_decode.md R80, R87, R88). -/
theorem parseToken_of_wellFormed {s : State} (h : WellFormedToken s) :
    parseToken s.cfg (rxText s) =
      if lrc (posBytes s 0 (13 + tokenCount s)) ≠ posByte s (13 + tokenCount s) then .checksum
      else parseVerified s.cfg
        (headerOf (posBytes s 0 (14 + tokenCount s)) (byteCount (stripped (rxText s)))) := by
  obtain ⟨⟨⟨hdelim, hlen, hdigits⟩, hfits, hexact⟩, hhex⟩ := h
  have htext : (stripped (rxText s)).length = s.opd.rxLen - 2 := by rw [stripped_length, rxText_length]
  have hend := frameEnd_rxText hlen
  have hframe := frameBytes_rxText s hlen hfits
  have hcovered : coveredBytes (stripped (rxText s)) = posBytes s 0 (13 + tokenCount s) := by
    rw [coveredBytes, hframe, byteCount_rxText s hlen, posBytes_take _ _ _ _ (by omega)]
  have hclaimed : claimedByte (stripped (rxText s)) = posByte s (13 + tokenCount s) := by
    rw [claimedByte, hframe, byteCount_rxText s hlen, posBytes_getD _ _ _ (by omega), Nat.zero_add]
  have hall := (all_ishex_rxText s _ hfits).mpr hhex
  rw [parseToken_of_delimited hdelim, parseText, htext, hend, hframe, hcovered, hclaimed, hall,
    countIsHex_rxText hlen hdigits, if_neg (by omega), if_neg (by simp), if_neg (by omega),
    if_neg (fun hreject => hreject.2 (hexact hreject.1)), if_neg (by simp)]

/-- A well-formed frame with another checksum keeps nothing of the frame (41_decode.md R88, 60_exceptions.md R124). -/
theorem decodeFails_of_wrong_checksum {s : State} (h : WellFormedToken s)
    (hlrc : lrc (posBytes s 0 (13 + tokenCount s)) ≠ posByte s (13 + tokenCount s)) :
    DecodeFails s .checksum .csum true false := by
  have hdecode : decodeRx s = commitDecode s .checksum := by
    rw [decodeRx, parseToken_of_wellFormed h, if_pos hlrc]
  exact ⟨_, ⟨congrArg Host.Outcome.next hdecode, rfl⟩, rfl, rfl⟩

end Sys2Proof.Machine

/-! One character of the text altered: it changes one frame byte, and in the data segment nothing else that the parse
reads before the checksum (40_lrc.md R78). -/

namespace Sys2Proof.Machine

/-- The state with character `p` of the text altered: `T[p] = RX[p+1]` (20_memory.md R31). -/
def alterChar (s : State) (p : Nat) (c : Byte) : State :=
  { s with opd := { s.opd with rx := writeCell s.opd.rx (p + 1) c } }

section
variable (s : State) (p : Nat) (c : Byte)

theorem rxElem_alterChar (i : Nat) : rxElem (alterChar s p c) i = if i = p + 1 then c else rxElem s i :=
  getD_readCell_writeCell ..

theorem pos_alterChar (q : Nat) : pos (alterChar s p c) q = if q = p then c else pos s q := by
  simp only [pos, rxElem_alterChar, Nat.add_right_cancel_iff]

theorem posByte_alterChar_of_ne {k : Nat} (hk : k ≠ p / 2) : posByte (alterChar s p c) k = posByte s k := by
  rw [posByte, pos_alterChar, pos_alterChar, if_neg (by omega), if_neg (by omega), posByte]

theorem tokenCount_alterChar (hp : 26 ≤ p) : tokenCount (alterChar s p c) = tokenCount s := by
  rw [tokenCount, posByte_alterChar_of_ne s p c (by omega), posByte_alterChar_of_ne s p c (by omega), tokenCount]

/-- The altered character's byte is the only one that can differ. -/
theorem posBytes_alterChar (n : Nat) :
    posBytes (alterChar s p c) 0 n = (posBytes s 0 n).set (p / 2) (posByte (alterChar s p c) (p / 2)) := by
  refine List.ext_getElem (by simp) fun k hk _ => ?_
  by_cases hkp : p / 2 = k
  · simp [posBytes, hkp]
  · simp [posBytes, hkp, posByte_alterChar_of_ne s p c (Ne.symm hkp)]

end

/-- Two hex digits and two others spell the same byte only if the digits agree in value (20_memory.md R32). -/
theorem posByte_eq_iff {s u : State} {k : Nat} (hs0 : ishex (pos s (2 * k)) = true)
    (hs1 : ishex (pos s (2 * k + 1)) = true) (hu0 : ishex (pos u (2 * k)) = true)
    (hu1 : ishex (pos u (2 * k + 1)) = true) : posByte u k = posByte s k ↔
      hexval (pos u (2 * k)) = hexval (pos s (2 * k)) ∧ hexval (pos u (2 * k + 1)) = hexval (pos s (2 * k + 1)) := by
  have hsv0 := hexval_lt_of_ishex _ hs0
  have hsv1 := hexval_lt_of_ishex _ hs1
  have huv0 := hexval_lt_of_ishex _ hu0
  have huv1 := hexval_lt_of_ishex _ hu1
  rw [← BitVec.toNat_inj, posByte, posByte, BitVec.toNat_ofNat, BitVec.toNat_ofNat]
  omega

section
variable {s : State} {p : Nat} {c : Byte} (hwf : WellFormedToken s) (hp1 : 26 ≤ p)
  (hp2 : p < 26 + 2 * tokenCount s) (hc : ishex c = true)
include hwf hp1 hp2 hc

theorem wellFormed_alterChar : WellFormedToken (alterChar s p c) := by
  obtain ⟨⟨⟨⟨hne, hopen, hclose⟩, hlen, hdigits⟩, hfits, hexact⟩, hhex⟩ := hwf
  have hcount := tokenCount_alterChar s p c hp1
  refine ⟨⟨⟨⟨hne, ?_, ?_⟩, hlen, fun q h1 h2 => ?_⟩, ?_, ?_⟩, fun q hq => ?_⟩
  · rw [rxElem_alterChar, if_neg (by omega), hopen]
  · rw [rxElem_alterChar, if_neg (by change s.opd.rxLen - 1 ≠ p + 1; omega)]
    exact hclose
  · rw [pos_alterChar, if_neg (by omega), hdigits q h1 h2]
  · rwa [hcount]
  · rwa [hcount]
  · rw [hcount] at hq
    rw [pos_alterChar]
    split
    · exact hc
    · exact hhex q hq

/-- A hex digit of another value changes the byte it spells (40_lrc.md R78). -/
theorem posByte_alterChar_ne (hval : hexval c ≠ hexval (pos s p)) :
    posByte (alterChar s p c) (p / 2) ≠ posByte s (p / 2) := by
  have hwf' := wellFormed_alterChar hwf hp1 hp2 hc
  have hs : ∀ q, q < 28 + 2 * tokenCount s → ishex (pos s q) = true := hwf.2
  have hu := hwf'.2
  rw [tokenCount_alterChar s p c hp1] at hu
  rw [Ne, posByte_eq_iff (hs _ (by omega)) (hs _ (by omega)) (hu _ (by omega)) (hu _ (by omega))]
  rintro ⟨hhi, hlo⟩
  have hself : hexval (pos (alterChar s p c) p) = hexval (pos s p) := by
    rcases Nat.mod_two_eq_zero_or_one p with hmod | hmod
    · rwa [show 2 * (p / 2) = p by omega] at hhi
    · rwa [show 2 * (p / 2) + 1 = p by omega] at hlo
  rw [pos_alterChar, if_pos rfl] at hself
  exact hval hself

end

/-- Settles O26: the token stays well-formed and keeps its count and claimed byte, while one covered byte changes. -/
theorem decodeSeesOneAlteredDataCharacter : Obligations.DecodeSeesOneAlteredDataCharacter := by
  intro s p c hv hp1 hp2 hc hval
  obtain ⟨hwf, hlrc⟩ := hv
  have hchanged := posByte_alterChar_ne hwf hp1 hp2 hc hval
  have hindex : p / 2 < 13 + tokenCount s := by omega
  refine decodeFails_of_wrong_checksum (s := alterChar s p c) (wellFormed_alterChar hwf hp1 hp2 hc) ?_
  rw [tokenCount_alterChar s p c hp1, posByte_alterChar_of_ne s p c (by omega), ← hlrc, posBytes_alterChar]
  refine lrc_set_ne (by rwa [posBytes_length]) ?_
  rwa [posBytes_getD _ _ _ hindex, Nat.zero_add]

end Sys2Proof.Machine

/-! The parse of the token in `RX`, test by test: what each test answers where it is the first to fail (41_decode.md
R81 to R86, R95). -/

namespace Sys2Proof.Machine

/-- A parse that ends malformed keeps nothing of the frame (41_decode.md R96, 60_exceptions.md R122, R124). -/
theorem decodeFails_of_malformed {s : State} {c : Cause} (h : parseToken s.cfg (rxText s) = .malformed c) :
    DecodeFails s .malformed c false true := by
  have hdecode : decodeRx s = commitDecode s (.malformed c) := by rw [decodeRx, h]
  exact ⟨_, ⟨congrArg Host.Outcome.next hdecode, rfl⟩, rfl, rfl⟩

section
variable {s : State}

theorem stripped_rxText_length : (stripped (rxText s)).length = s.opd.rxLen - 2 := by
  rw [stripped_length, rxText_length]

theorem parseToken_of_not_opened (h : s.opd.rxLen = 0 ∨ rxElem s 0 ≠ openBrace) :
    parseToken s.cfg (rxText s) = .malformed .delimOpen := by
  refine if_pos fun hhead => ?_
  rw [rxText_head?, Option.ite_none_left_eq_some, Option.some_inj] at hhead
  exact h.elim hhead.1 (· hhead.2)

theorem parseToken_of_not_closed (hlen : s.opd.rxLen ≠ 0) (hopen : rxElem s 0 = openBrace)
    (hclose : rxElem s (s.opd.rxLen - 1) ≠ closeBrace) : parseToken s.cfg (rxText s) = .malformed .delimClose := by
  have hhead : (rxText s).head? = some openBrace := by rw [rxText_head?, if_neg hlen, hopen]
  have hlast : (rxText s).getLast? ≠ some closeBrace := by
    rw [rxText_getLast?, if_neg hlen, Ne, Option.some_inj]
    exact hclose
  rw [parseToken, if_neg (not_not.mpr hhead), if_pos hlast]

theorem parseToken_of_short (hdelim : Delimited s) (hshort : s.opd.rxLen - 2 < 30) :
    parseToken s.cfg (rxText s) = .malformed .short := by
  rw [parseToken_of_delimited hdelim, parseText, stripped_rxText_length, if_pos hshort]

/-- One non-hex character among positions 22 to 25 hides the byte count (41_decode.md R83). -/
theorem countIsHex_rxText_eq_false {p : Nat} (hlen : 30 ≤ s.opd.rxLen - 2) (h1 : 22 ≤ p) (h2 : p < 26)
    (hp : ishex (pos s p) = false) : countIsHex (stripped (rxText s)) = false := by
  rw [← stripped_rxText s (by omega)] at hp
  have hpos : p = 22 ∨ p = 23 ∨ p = 24 ∨ p = 25 := by omega
  rcases hpos with rfl | rfl | rfl | rfl <;> simp only [countIsHex, hp, Bool.and_false, Bool.false_and]

theorem parseToken_of_nonHex_count {p : Nat} (hdelim : Delimited s) (hlen : 30 ≤ s.opd.rxLen - 2) (h1 : 22 ≤ p)
    (h2 : p < 26) (hp : ishex (pos s p) = false) : parseToken s.cfg (rxText s) = .malformed .nonHex := by
  rw [parseToken_of_delimited hdelim, parseText, stripped_rxText_length, if_neg (by omega),
    countIsHex_rxText_eq_false hlen h1 h2 hp]
  rfl

end

/-- Lines 10 to 12 of 41_decode.md R80, on a text that holds the span of its byte count. -/
def parseSpan (cfg : Config) (t : List Byte) : DecodeResult :=
  if !(t.take (frameEnd t)).all ishex then .malformed .nonHex
  else if lrc (coveredBytes t) ≠ claimedByte t then .checksum
  else parseVerified cfg (headerOf (frameBytes t) (byteCount t))

section
variable {s : State}

/-- With a readable byte count the length of the text decides next (41_decode.md R84, R85). -/
theorem parseToken_of_countReadable (h : CountReadable s) :
    parseToken s.cfg (rxText s) =
      if s.opd.rxLen - 2 < 28 + 2 * tokenCount s then .malformed .overrun
      else if s.cfg.trailing = .reject ∧ 28 + 2 * tokenCount s ≠ s.opd.rxLen - 2 then .malformed .trailing
      else parseSpan s.cfg (stripped (rxText s)) := by
  obtain ⟨hdelim, hlen, hdigits⟩ := h
  rw [parseToken_of_delimited hdelim, parseText, stripped_rxText_length, if_neg (by omega),
    countIsHex_rxText hlen hdigits, if_neg (by simp), ← frameEnd_rxText hlen]
  rfl

theorem parseToken_of_overrun (h : CountReadable s) (hover : s.opd.rxLen - 2 < 28 + 2 * tokenCount s) :
    parseToken s.cfg (rxText s) = .malformed .overrun := by
  rw [parseToken_of_countReadable h, if_pos hover]

theorem parseToken_of_trailing (h : CountReadable s) (hreject : s.cfg.trailing = .reject)
    (htrail : 28 + 2 * tokenCount s < s.opd.rxLen - 2) : parseToken s.cfg (rxText s) = .malformed .trailing := by
  rw [parseToken_of_countReadable h, if_neg (by omega), if_pos ⟨hreject, by omega⟩]

theorem parseToken_of_spanOk (h : SpanOk s) :
    parseToken s.cfg (rxText s) = parseSpan s.cfg (stripped (rxText s)) := by
  obtain ⟨hcount, hfits, hexact⟩ := h
  rw [parseToken_of_countReadable hcount, if_neg (by omega), if_neg fun hreject => hreject.2 (hexact hreject.1)]

theorem parseToken_of_nonHex_body {p : Nat} (h : SpanOk s) (hspan : p < 28 + 2 * tokenCount s)
    (hp : ishex (pos s p) = false) : parseToken s.cfg (rxText s) = .malformed .nonHex := by
  rw [parseToken_of_spanOk h]
  obtain ⟨⟨-, hlen, -⟩, hfits, -⟩ := h
  refine if_pos ?_
  rw [frameEnd_rxText hlen, Bool.not_eq_true', ← Bool.not_eq_true, all_ishex_rxText s _ hfits]
  exact fun hall => Bool.false_ne_true (hp.symm.trans (hall p hspan))

/-- A token that is no well-formed frame fails one of the tests up to the digit test (41_decode.md R95). -/
theorem parseToken_of_not_wellFormed (h : ¬ WellFormedToken s) :
    ∃ c, parseToken s.cfg (rxText s) = .malformed c := by
  by_cases hopen : s.opd.rxLen = 0 ∨ rxElem s 0 ≠ openBrace
  · exact ⟨_, parseToken_of_not_opened hopen⟩
  obtain ⟨hne, hopen⟩ : s.opd.rxLen ≠ 0 ∧ rxElem s 0 = openBrace := by simpa using hopen
  by_cases hclose : rxElem s (s.opd.rxLen - 1) = closeBrace
  swap
  · exact ⟨_, parseToken_of_not_closed hne hopen hclose⟩
  have hdelim : Delimited s := ⟨hne, hopen, hclose⟩
  by_cases hshort : s.opd.rxLen - 2 < 30
  · exact ⟨_, parseToken_of_short hdelim hshort⟩
  have hlen : 30 ≤ s.opd.rxLen - 2 := by omega
  by_cases hdigits : ∀ p, 22 ≤ p → p < 26 → ishex (pos s p) = true
  swap
  · push Not at hdigits
    obtain ⟨p, h1, h2, hp⟩ := hdigits
    exact ⟨_, parseToken_of_nonHex_count hdelim hlen h1 h2 (eq_false_of_ne_true hp)⟩
  have hcount : CountReadable s := ⟨hdelim, hlen, hdigits⟩
  by_cases hover : s.opd.rxLen - 2 < 28 + 2 * tokenCount s
  · exact ⟨_, parseToken_of_overrun hcount hover⟩
  by_cases htrail : s.cfg.trailing = .reject ∧ 28 + 2 * tokenCount s < s.opd.rxLen - 2
  · exact ⟨_, parseToken_of_trailing hcount htrail.1 htrail.2⟩
  have hspan : SpanOk s := by
    refine ⟨hcount, by omega, fun hreject => ?_⟩
    have hend : ¬ 28 + 2 * tokenCount s < s.opd.rxLen - 2 := fun hlt => htrail ⟨hreject, hlt⟩
    omega
  have hbody : ¬ ∀ p, p < 28 + 2 * tokenCount s → ishex (pos s p) = true := fun hhex => h ⟨hspan, hhex⟩
  push Not at hbody
  obtain ⟨p, hp, hnot⟩ := hbody
  exact ⟨_, parseToken_of_nonHex_body hspan hp (eq_false_of_ne_true hnot)⟩

end

/-- Settles O13: the first character is looked at before the last. -/
theorem decodeRejectsMissingDelimiter : Obligations.DecodeRejectsMissingDelimiter := fun _ =>
  ⟨fun hopen => decodeFails_of_malformed (parseToken_of_not_opened hopen),
    fun hne hopen hclose => decodeFails_of_malformed (parseToken_of_not_closed hne hopen hclose)⟩

/-- No test of a text of 30 characters or more answers that it is short (41_decode.md R82). -/
theorem parseText_ne_short (cfg : Config) {t : List Byte} (hlen : 30 ≤ t.length) :
    parseText cfg t ≠ .malformed .short := by
  rw [parseText, if_neg (by omega), parseVerified]
  split_ifs <;> nofun

theorem commitDecode_cause_short_iff (s : State) (r : DecodeResult) :
    (commitDecode s r).cause = .short ↔ r = .malformed .short := by
  cases r with
  | malformed c => exact ⟨congrArg _, fun h => DecodeResult.malformed.inj h⟩
  | _ => exact ⟨nofun, nofun⟩

/-- Settles O14: the length is the first test of the stripped text, and no later one answers C_SHORT. -/
theorem decodeRejectsShortText : Obligations.DecodeRejectsShortText := by
  intro s hdelim
  refine ⟨fun hshort => decodeFails_of_malformed (parseToken_of_short hdelim hshort), fun hlen => ⟨_, rfl, ?_⟩⟩
  rw [decodeRx, Ne, commitDecode_cause_short_iff, parseToken_of_delimited hdelim]
  exact parseText_ne_short s.cfg (by rwa [stripped_rxText_length])

/-- Settles O15: any one of the four positions fails the digit test of the byte count. -/
theorem decodeRejectsNonHexCount : Obligations.DecodeRejectsNonHexCount := fun _ _ hdelim hlen h1 h2 hp =>
  decodeFails_of_malformed (parseToken_of_nonHex_count hdelim hlen h1 h2 hp)

/-- Settles O16: the first test after the byte count is read. -/
theorem decodeRejectsOverrun : Obligations.DecodeRejectsOverrun := fun _ hcount hover =>
  decodeFails_of_malformed (parseToken_of_overrun hcount hover)

/-- Settles O17: the text is long enough for its byte count, so the policy's own test decides. -/
theorem decodeRejectsTrailingText : Obligations.DecodeRejectsTrailingText := fun _ hcount hreject htrail =>
  decodeFails_of_malformed (parseToken_of_trailing hcount hreject htrail)

/-- Settles O18: the digit test of the whole span stands before the checksum comparison. -/
theorem decodeRejectsNonHexBody : Obligations.DecodeRejectsNonHexBody := fun _ _ hspan hp hnot =>
  decodeFails_of_malformed (parseToken_of_nonHex_body hspan hp hnot)

end Sys2Proof.Machine

/-! A verified frame: its header is kept, and its snapshot as its length says; of a token with another checksum
nothing is (41_decode.md R88 to R91, R93, R95). -/

namespace Sys2Proof.Machine

theorem posBytes_succ (s : State) (n : Nat) : posBytes s 0 (n + 1) = posBytes s 0 n ++ [posByte s n] := by
  simp [posBytes, List.range_succ]

/-- Settles O19: the checksum is the one byte that brings the sum of the frame to 0. -/
theorem decodeRejectsWrongChecksum : Obligations.DecodeRejectsWrongChecksum := by
  refine fun s hwf => ⟨decodeFails_of_wrong_checksum hwf, ?_⟩
  have hsum : byteSum (posBytes s 0 (14 + tokenCount s)) =
      byteSum (posBytes s 0 (13 + tokenCount s)) + (posByte s (13 + tokenCount s)).toNat := by
    rw [show 14 + tokenCount s = 13 + tokenCount s + 1 by omega, posBytes_succ, byteSum_append]
    rfl
  rw [← byteSum_eq_sum, hsum, byteSum_add_mod_eq_zero_iff]
  exact eq_comm

/-- The header of the token in `RX`, byte by byte (41_decode.md R89). -/
def tokenHeader (s : State) : HeaderVals where
  addr  := ⟨posByte s 0, posByte s 1, posByte s 2, posByte s 3, posByte s 4, posByte s 5⟩
  rsvd0 := posByte s 6
  rsvd1 := posByte s 7
  fn    := posByte s 8
  reg   := posByte s 9
  cnt   := posByte s 10
  bc    := le16 (posByte s 11) (posByte s 12)
  data  := posBytes s 13 (tokenCount s)

theorem tokenHeader_bc (s : State) : (tokenHeader s).bc.toNat = tokenCount s := le16_toNat ..

theorem byteCount_rxText_eq_le16 {s : State} (hlen : 30 ≤ s.opd.rxLen - 2) :
    byteCount (stripped (rxText s)) = le16 (posByte s 11) (posByte s 12) := by
  rw [byteCount, byteAt_rxText s (by omega), byteAt_rxText s (by omega)]

theorem headerOf_posBytes (s : State) :
    headerOf (posBytes s 0 (14 + tokenCount s)) (le16 (posByte s 11) (posByte s 12)) = tokenHeader s := by
  have hcount : (le16 (posByte s 11) (posByte s 12)).toNat = tokenCount s := tokenHeader_bc s
  have hbyte (k : Nat) (hk : k < 14) : (posBytes s 0 (14 + tokenCount s)).getD k 0 = posByte s k := by
    rw [posBytes_getD s 0 _ (by omega), Nat.zero_add]
  have hdata : ((posBytes s 0 (14 + tokenCount s)).drop 13).take (tokenCount s) = posBytes s 13 (tokenCount s) := by
    rw [show 14 + tokenCount s = 13 + (tokenCount s + 1) by omega, posBytes_drop, posBytes_take _ _ _ _ (by omega)]
  simp (disch := omega) only [headerOf, hcount, hdata, hbyte, tokenHeader]

theorem parseToken_of_verified {s : State} (h : VerifiedToken s) :
    parseToken s.cfg (rxText s) = parseVerified s.cfg (tokenHeader s) := by
  obtain ⟨hwf, hlrc⟩ := h
  rw [parseToken_of_wellFormed hwf, if_neg (not_not.mpr hlrc)]
  obtain ⟨⟨⟨-, hlen, -⟩, -⟩, -⟩ := hwf
  rw [byteCount_rxText_eq_le16 hlen, headerOf_posBytes]

/-- The header registers hold the values of a header, and `DSEG` its data (10_state.md R20, 41_decode.md R89). -/
structure HoldsHeader (d : DecodeGroup) (v : HeaderVals) : Prop where
  valid : d.hV = true
  addr  : d.hAddr = v.addr
  rsvd0 : d.hRsvd0 = v.rsvd0
  rsvd1 : d.hRsvd1 = v.rsvd1
  fn    : d.hFn = v.fn
  reg   : d.hReg = v.reg
  cnt   : d.hCnt = v.cnt
  bc    : d.hBc = v.bc
  data  : ∀ j, readCell d.dseg j = v.data[j]?

theorem holdsHeader_headerGroup (v : HeaderVals) : HoldsHeader (headerGroup v) v :=
  ⟨rfl, rfl, rfl, rfl, rfl, rfl, rfl, rfl, fun j => readCell_cellsFrom 0 j v.data⟩

theorem holdsHeader_snapGroup (v : HeaderVals) (x : SnapVals) : HoldsHeader (snapGroup v x) v :=
  { holdsHeader_headerGroup v with }

section
variable (s : State) {cfg : Config} {v : HeaderVals}

/-- What a verified frame too short for the snapshot leaves (41_decode.md R90). -/
theorem commitDecode_parseVerified_of_le (h : v.bc.toNat ≤ maxSnapIdx cfg.snapIdx) :
    commitDecode s (parseVerified cfg v) =
      { s with dec := headerGroup v, status := .noSnap, cause := .noSnap, evCsum := false, evMalf := true } := by
  rw [parseVerified, if_pos h]
  rfl

/-- What a verified frame long enough for the snapshot leaves (41_decode.md R91, R93). -/
theorem commitDecode_parseVerified_of_lt (h : maxSnapIdx cfg.snapIdx < v.bc.toNat) :
    commitDecode s (parseVerified cfg v) =
      { s with
        dec := snapGroup v (snapOf cfg.snapIdx v.data)
        status := .ok, cause := .none, evCsum := false, evMalf := false } := by
  rw [parseVerified, if_neg (Nat.not_le.mpr h)]
  rfl

end

/-- A verified frame leaves its header, and its length alone decides between the two outcomes. -/
theorem commitDecode_parseVerified (s : State) (cfg : Config) (v : HeaderVals) :
    HoldsHeader (commitDecode s (parseVerified cfg v)).dec v
      ∧ (commitDecode s (parseVerified cfg v)).status
          = if maxSnapIdx cfg.snapIdx < v.bc.toNat then .ok else .noSnap := by
  by_cases h : maxSnapIdx cfg.snapIdx < v.bc.toNat
  · rw [commitDecode_parseVerified_of_lt s h, if_pos h]
    exact ⟨holdsHeader_snapGroup .., rfl⟩
  · rw [commitDecode_parseVerified_of_le s (Nat.not_lt.mp h), if_neg h]
    exact ⟨holdsHeader_headerGroup v, rfl⟩

theorem HoldsHeader.headerIs {s : State} {d : DecodeGroup} (h : HoldsHeader d (tokenHeader s)) : HeaderIs s d := by
  obtain ⟨hvalid, haddr, hrsvd0, hrsvd1, hfn, hreg, hcnt, hbc, hdata⟩ := h
  refine ⟨hvalid, haddr, hrsvd0, hrsvd1, hfn, hreg, hcnt, by rw [hbc, tokenHeader_bc], fun j hj => ?_⟩
  rw [hdata]
  simp [tokenHeader, posBytes, hj]

/-- Settles O20: the failure commit of ST_NOSNAP drops the snapshot alone. -/
theorem decodeWithoutSnapshot : Obligations.DecodeWithoutSnapshot := by
  intro s hv hshort
  rw [← tokenHeader_bc] at hshort
  have hdecode := commitDecode_parseVerified_of_le s hshort
  rw [← parseToken_of_verified hv] at hdecode
  exact ⟨_, ⟨congrArg Host.Outcome.next hdecode, rfl⟩, (holdsHeader_headerGroup _).headerIs, rfl⟩

theorem snapIdx_le_maxSnapIdx (x : SnapIdx) : x.power ≤ maxSnapIdx x ∧ x.fan ≤ maxSnapIdx x
    ∧ x.setTemp ≤ maxSnapIdx x ∧ x.sweep ≤ maxSnapIdx x ∧ x.mode ≤ maxSnapIdx x ∧ x.roomLo ≤ maxSnapIdx x
    ∧ x.roomHi ≤ maxSnapIdx x := by
  simp [maxSnapIdx]

/-- The snapshot of the token's data is the data bytes at the indices of `SNAP_IDX` (41_decode.md R91). -/
theorem snapshotIs_snapGroup {s : State} (v : HeaderVals) (h : maxSnapIdx s.cfg.snapIdx < tokenCount s) :
    SnapshotIs s (snapGroup v (snapOf s.cfg.snapIdx (posBytes s 13 (tokenCount s)))) := by
  obtain ⟨hpower, hfan, htemp, hsweep, hmode, hlo, hhi⟩ := snapIdx_le_maxSnapIdx s.cfg.snapIdx
  have field {i : Nat} (hi : i ≤ maxSnapIdx s.cfg.snapIdx) :
      (posBytes s 13 (tokenCount s)).getD i 0 = posByte s (13 + i) := posBytes_getD s 13 _ (hi.trans_lt h)
  refine ⟨rfl, field hpower, field hfan, field htemp, field hsweep, field hmode, ?_⟩
  rw [← field hlo, ← field hhi]
  exact le16_toNat ..

/-- Settles O21: every index of `SNAP_IDX` is below the byte count. -/
theorem decodeWithSnapshot : Obligations.DecodeWithSnapshot := by
  intro s hv hlong
  have hsnap := snapshotIs_snapGroup (tokenHeader s) hlong
  rw [← tokenHeader_bc] at hlong
  have hdecode := commitDecode_parseVerified_of_lt s hlong
  rw [← parseToken_of_verified hv] at hdecode
  exact ⟨_, ⟨congrArg Host.Outcome.next hdecode, rfl⟩, (holdsHeader_snapGroup ..).headerIs, hsnap⟩

/-- A decode fails exactly on the tokens that are not verified, and then keeps no valid flag (41_decode.md R95). -/
theorem decodeRx_of_not_verified {s : State} (h : ¬ VerifiedToken s) :
    ((decodeRx s).status = .malformed ∨ (decodeRx s).status = .checksum) ∧ (decodeRx s).dec = DecodeGroup.empty := by
  by_cases hwf : WellFormedToken s
  · have hlrc : lrc (posBytes s 0 (13 + tokenCount s)) ≠ posByte s (13 + tokenCount s) := fun he => h ⟨hwf, he⟩
    rw [decodeRx, parseToken_of_wellFormed hwf, if_pos hlrc]
    exact ⟨.inr rfl, rfl⟩
  · obtain ⟨c, hparse⟩ := parseToken_of_not_wellFormed hwf
    rw [decodeRx, hparse]
    exact ⟨.inl rfl, rfl⟩

/-- Settles O22: by whether the token is verified, and then whether it is long enough for the snapshot. -/
theorem decodeIsTotal : Obligations.DecodeIsTotal := by
  refine fun s => ⟨_, rfl, ?_⟩
  by_cases hv : VerifiedToken s
  · rw [decodeRx, parseToken_of_verified hv]
    by_cases hlong : maxSnapIdx s.cfg.snapIdx < (tokenHeader s).bc.toNat
    · rw [commitDecode_parseVerified_of_lt s hlong]
      exact ⟨.inl rfl, ⟨fun _ => rfl, fun _ => rfl⟩, ⟨fun _ => .inl rfl, fun _ => rfl⟩, fun _ => hv, fun _ => rfl⟩
    · rw [commitDecode_parseVerified_of_le s (Nat.not_lt.mp hlong)]
      exact ⟨.inr (.inl rfl), ⟨nofun, nofun⟩, ⟨fun _ => .inr rfl, fun _ => rfl⟩, fun _ => hv, fun _ => rfl⟩
  · obtain ⟨hstatus, hdec⟩ := decodeRx_of_not_verified hv
    rw [hdec]
    rcases hstatus with hst | hst <;> rw [hst] <;> simp [DecodeGroup.empty, hv]

end Sys2Proof.Machine

/-! Text after the checksum and the policy about it (41_decode.md R85). -/

namespace Sys2Proof.Machine

section
variable {s u : State} (hagree : ∀ p, p < 28 + 2 * tokenCount s → pos u p = pos s p)
include hagree

theorem posByte_of_agree {k : Nat} (hk : k < 14 + tokenCount s) : posByte u k = posByte s k := by
  rw [posByte, hagree _ (by omega), hagree _ (by omega), posByte]

theorem tokenCount_of_agree : tokenCount u = tokenCount s := by
  rw [tokenCount, posByte_of_agree hagree (by omega), posByte_of_agree hagree (by omega), tokenCount]

theorem posBytes_of_agree {n : Nat} (hn : n ≤ 14 + tokenCount s) : posBytes u 0 n = posBytes s 0 n :=
  List.map_congr_left fun k hk => posByte_of_agree hagree (by have := List.mem_range.mp hk; omega)

/-- Two tokens that agree up to the end of the checksum parse alike once both hold the span. -/
theorem parseToken_of_agree (hcfg : u.cfg = s.cfg) (hs : SpanOk s) (hu : SpanOk u) :
    parseToken u.cfg (rxText u) = parseToken s.cfg (rxText s) := by
  have hcount := tokenCount_of_agree hagree
  by_cases hhex : ∀ p, p < 28 + 2 * tokenCount s → ishex (pos s p) = true
  · have hhexu : ∀ p, p < 28 + 2 * tokenCount u → ishex (pos u p) = true := fun p hp => by
      rw [hcount] at hp
      rw [hagree p hp, hhex p hp]
    have hbc : byteCount (stripped (rxText u)) = byteCount (stripped (rxText s)) := by
      obtain ⟨⟨-, hlens, -⟩, -⟩ := hs
      obtain ⟨⟨-, hlenu, -⟩, -⟩ := hu
      rw [byteCount_rxText_eq_le16 hlenu, byteCount_rxText_eq_le16 hlens, posByte_of_agree hagree (by omega),
        posByte_of_agree hagree (by omega)]
    rw [parseToken_of_wellFormed ⟨hu, hhexu⟩, parseToken_of_wellFormed ⟨hs, hhex⟩, hcount, hcfg, hbc,
      posBytes_of_agree hagree (by omega), posBytes_of_agree hagree (by omega), posByte_of_agree hagree (by omega)]
  · push Not at hhex
    obtain ⟨p, hp, hnot⟩ := hhex
    have hnot := eq_false_of_ne_true hnot
    rw [parseToken_of_nonHex_body hs hp hnot,
      parseToken_of_nonHex_body hu (by rwa [hcount]) (by rwa [hagree p hp])]

end

/-- Settles O24: past the overrun test the parse reads no position from the end of the checksum on. -/
theorem decodeIgnoresTrailingText : Obligations.DecodeIgnoresTrailingText := by
  intro s u _ hcfg hs hu hagree
  obtain ⟨⟨hst, hca, -⟩, hdec⟩ := commitDecode_results s u (parseToken s.cfg (rxText s))
  refine ⟨_, _, rfl, rfl, ?_⟩
  rw [decodeRx, decodeRx, parseToken_of_agree hagree hcfg hs hu]
  exact ⟨hdec, hst, hca⟩

/-- The state under another trailing policy. -/
def withTrailing (p : TrailingPolicy) (s : State) : State := { s with cfg := { s.cfg with trailing := p } }

theorem withTrailing_withTrailing (p q : TrailingPolicy) (s : State) :
    withTrailing p (withTrailing q s) = withTrailing p s := rfl

/-- What a decode commits depends on no configuration but through the parse. -/
theorem commitDecode_withTrailing (p : TrailingPolicy) (s : State) (r : DecodeResult) :
    commitDecode (withTrailing p s) r = withTrailing p (commitDecode s r) := by
  cases r <;> rfl

/-- A token of exact length passes both length tests under either policy. -/
theorem decodeRx_withTrailing {s : State} (hcount : CountReadable s)
    (hexact : 28 + 2 * tokenCount s = s.opd.rxLen - 2) (p : TrailingPolicy) :
    decodeRx (withTrailing p s) = withTrailing p (commitDecode s (parseSpan s.cfg (stripped (rxText s)))) := by
  have hspan : SpanOk (withTrailing p s) := ⟨hcount, hexact.le, fun _ => hexact⟩
  rw [decodeRx, parseToken_of_spanOk hspan, commitDecode_withTrailing]
  rfl

/-- Settles O25: each policy leaves the parse of the span, under that policy. -/
theorem trailingPoliciesAgreeOnExactTokens : Obligations.TrailingPoliciesAgreeOnExactTokens := by
  intro s hcount hexact
  refine ⟨decodeRx (withTrailing .ignore s), rfl, ?_⟩
  calc exec .frmDecode (withTrailing .reject s)
    _ = .next (decodeRx (withTrailing .reject s)) := rfl
    _ = .next (withTrailing .reject (decodeRx (withTrailing .ignore s))) := by
      rw [decodeRx_withTrailing hcount hexact, decodeRx_withTrailing hcount hexact, withTrailing_withTrailing]

end Sys2Proof.Machine

/-! A frame that is received or built decodes to its own fields (41_decode.md R89, R97; log 2). -/

namespace Sys2Proof.Machine

/-- The general frame with its own checksum as the claimed one (20_memory.md R36, 40_lrc.md R73). -/
def checkedFrame (a : Addr6) (s0 s1 f r n : Byte) (data : List Byte) : Instr :=
  .frameGeneral a s0 s1 f r n data (lrc (headerBytes a s0 s1 f r n data.length ++ data))

theorem checkedFrame_encode_length (a : Addr6) (s0 s1 f r n : Byte) (data : List Byte) :
    (encode (checkedFrame a s0 s1 f r n data)).length = 14 + data.length :=
  Laws.EncodeLength.frameGeneral ..

/-- The decode of a frame's token with a matching checksum leaves the frame's own fields (41_decode.md R89, R90). -/
theorem decodeRx_checkedFrame (s : State) (a : Addr6) (s0 s1 f r n : Byte) {data : List Byte} {bc : Half}
    (hbc : bc.toNat = data.length) (hdata : 1 ≤ data.length) :
    let t := decodeRx (presentToken (tokenOf (encode (checkedFrame a s0 s1 f r n data))) s)
    HoldsHeader t.dec ⟨a, s0, s1, f, r, n, bc, data⟩
      ∧ t.status = if maxSnapIdx s.cfg.snapIdx < data.length then .ok else .noSnap := by
  have hcount : BitVec.ofNat 16 data.length = bc := by rw [← hbc, BitVec.ofNat_toNat, BitVec.setWidth_eq]
  rw [decodeRx_presentToken, checkedFrame, parseToken_frame s.cfg a s0 s1 f r n _ hdata (by omega),
    if_neg (not_not.mpr rfl), hcount, ← hbc]
  exact commitDecode_parseVerified ..

theorem presentToken_opd (tok : List Byte) (s : State) : (presentToken tok s).opd =
    { s.opd with rx := writeCells s.opd.rx 0 tok, rxLen := tok.length } := rfl

/-- Settles O34: the receipt is the decode of the frame's token, which writes the decode group alone. -/
theorem receivedFrameIsDecoded : Obligations.ReceivedFrameIsDecoded := by
  intro s a s0 s1 f r n data hfits hdata hroom
  have hbc : (BitVec.ofNat 16 data.length).toNat = data.length := by
    rw [BitVec.toNat_ofNat]
    omega
  have hlen := checkedFrame_encode_length a s0 s1 f r n data
  have hexec := exec_frame_of_fits (i := checkedFrame a s0 s1 f r n data) (s := s) rfl (by omega)
  obtain ⟨hheader, hstatus⟩ := decodeRx_checkedFrame s a s0 s1 f r n hbc hdata
  obtain ⟨hcfg, hopd, hlrcg, htxg, -⟩ :=
    decodeRx_frame (presentToken (tokenOf (encode (checkedFrame a s0 s1 f r n data))) s)
  have hrxLen : (tokenOf (encode (checkedFrame a s0 s1 f r n data))).length = 30 + 2 * data.length := by
    rw [tokenOf_length, hlen]
    omega
  rw [presentToken_opd, hrxLen] at hopd
  exact ⟨_, hexec, hheader.valid, hheader.addr, hheader.rsvd0, hheader.rsvd1, hheader.fn, hheader.reg, hheader.cnt,
    by rw [hheader.bc, hbc], fun j _ => hheader.data j, hstatus, hopd, hcfg, hlrcg, htxg⟩

/-- The normalised address text, character by character (42_encode.md R101). -/
theorem normaliseAddr_addrText (s : State) : normaliseAddr s.cfg (addrText s) = addrStripped s := by
  simp only [normaliseAddr, addrText, readCells_eq_map, Nat.zero_add, addrStripped, List.contains_eq_mem,
    decide_not]
  rfl

theorem addrIsOk_addrText_iff (s : State) : addrIsOk (normaliseAddr s.cfg (addrText s)) = true ↔ AddressOk s := by
  simp only [addrIsOk, normaliseAddr_addrText, Bool.and_eq_true, beq_iff_eq, List.all_eq_true, AddressOk]

/-- What a build with a good address and room for the frame leaves: the token of the frame that its operands spell,
with reserved bytes 00 00 (42_encode.md R100, R103 to R105). -/
def afterBuild (s : State) : State :=
  succeed { s with
    txg := .holding (tokenOf (encode (checkedFrame (addrOf (addrStripped s)) 0 0 (operandByte s .fn)
      (operandByte s .reg) (operandByte s .cnt) (bufBytes s)))) }

theorem execFrmBuild_of_addressOk {s : State} (haddr : AddressOk s)
    (hfits : 30 + 2 * s.opd.bLen.toNat ≤ s.cfg.txMax) : exec .frmBuild s = .next (afterBuild s) := by
  have hok := (addrIsOk_addrText_iff s).mpr haddr
  rw [← bufBytes_length] at hfits
  rcases buildToken_cases s.cfg (addrText s) (operandByte s .fn) (operandByte s .reg) (operandByte s .cnt) (bufBytes s)
    with ⟨hbad, -⟩ | ⟨-, hlong, -⟩ | ⟨-, -, hbuild⟩
  · cases hok.symm.trans hbad
  · omega
  · rw [exec, execFrmBuild, hbuild, normaliseAddr_addrText]
    rfl

theorem getElem?_bufBytes (s : State) {i : Nat} (hi : i < s.opd.bLen.toNat) : (bufBytes s)[i]? = some (bufElem s i) := by
  rw [bufBytes, readCells_getElem? _ _ _ _ _ hi, Nat.zero_add]
  rfl

/-- Settles O32: the built token is a frame's token with a matching checksum, so its fields are the operands. -/
theorem decodeOfBuiltFrame : Obligations.DecodeOfBuiltFrame := by
  intro s haddr hfits hdata
  have hbc := bufBytes_length s
  obtain ⟨hheader, hstatus⟩ := decodeRx_checkedFrame (afterBuild s) (addrOf (addrStripped s)) 0 0
    (operandByte s .fn) (operandByte s .reg) (operandByte s .cnt) hbc.symm (by rwa [hbc])
  have htx : txBytes (afterBuild s).txg = tokenOf (encode (checkedFrame (addrOf (addrStripped s)) 0 0
      (operandByte s .fn) (operandByte s .reg) (operandByte s .cnt) (bufBytes s))) := txBytes_holding _
  rw [← htx] at hheader hstatus
  rw [hbc] at hstatus
  exact ⟨_, _, execFrmBuild_of_addressOk haddr hfits, rfl, hheader.valid, hheader.addr, hheader.rsvd0, hheader.rsvd1,
    hheader.fn, hheader.reg, hheader.cnt, hheader.bc, fun i hi => (hheader.data i).trans (getElem?_bufBytes s hi),
    hstatus⟩

end Sys2Proof.Machine

/-! After a failed decode the registers it cleared hold no value (10_state.md R23, 41_decode.md R96; log 8). -/

namespace Sys2Proof.Machine

theorem regValue_of_not_hV {s : State} {r : RegName} (hflag : s.dec.hV = false) (hr : isHeaderReg r = true) :
    regValue s r = none := by
  cases r with
  | hAddr | hRsvd | hFn | hReg | hCnt | hBc | dseg => simp [regValue, under, hflag]
  | _ => cases hr

theorem regValue_of_not_sV {s : State} {r : RegName} (hflag : s.dec.sV = false) (hr : isSnapReg r = true) :
    regValue s r = none := by
  cases r with
  | sPower | sFan | sSetTemp | sSweep | sMode | sRoom => simp [regValue, under, hflag]
  | _ => cases hr

/-- Settles O50: the flags of the decode are down, so the register holds no value and the read draws one. -/
theorem failedDecodeLeavesNoReadableValue : Obligations.FailedDecodeLeavesNoReadableValue := by
  intro s t r hdecode hex hcase
  obtain ⟨t', ht', -, hsV, hhV, -⟩ := decodeIsTotal s
  obtain rfl := Host.Outcome.next.inj (hdecode.symm.trans ht')
  have hnone : regValue t r = none := by
    rcases hcase with ⟨hst, hr | hr⟩ | ⟨hst, hr⟩
    · exact regValue_of_not_hV (by rcases hst with hst | hst <;> simpa [hst] using hhV) hr
    · exact regValue_of_not_sV (by rcases hst with hst | hst <;> simpa [hst] using hsV) hr
    · exact regValue_of_not_sV (by simpa [hst] using hsV) hr
  obtain ⟨-, hcfg, -, -, hdraws, -⟩ := operationsKeepOtherGroups .frmDecode s t rfl hdecode
  have hexists : ¬ BeyondCapacity t.cfg r := by
    rwa [hcfg, ← regExists_eq_false_iff, Bool.not_eq_false]
  have hop : r ≠ .op := by
    rintro rfl
    rcases hcase with ⟨-, hr | hr⟩ | ⟨-, hr⟩ <;> cases hr
  refine ⟨(shows_nothing_iff hexists).mpr hnone, _, step_read_of_no_regValue rfl hop hexists ?_, ?_⟩
  · rw [regValue_inbox, hnone]
  · rw [← hdraws]
    rfl

end Sys2Proof.Machine

/-! The scaled temperatures (41_decode.md R92). -/

namespace Sys2Proof.Machine

/-- Settles O60: the raw values are natural numbers of 8 and 16 bits. -/
theorem scaledTemperatures : Obligations.ScaledTemperatures := by
  intro d
  have htemp : (d.sSetTemp.toNat : ℚ) ≤ 255 := by exact_mod_cast Nat.le_of_lt_succ d.sSetTemp.isLt
  have hroom : (d.sRoom.toNat : ℚ) ≤ 65535 := by exact_mod_cast Nat.le_of_lt_succ d.sRoom.isLt
  have htemp0 : (0 : ℚ) ≤ d.sSetTemp.toNat := Nat.cast_nonneg _
  have hroom0 : (0 : ℚ) ≤ d.sRoom.toNat := Nat.cast_nonneg _
  rw [setTemperature, roomTemperature]
  refine ⟨?_, ?_, ?_, ?_, ?_, ?_⟩ <;> linarith

end Sys2Proof.Machine

/-! The text a build leaves in `TX`, or its caller error (42_encode.md R100, R107, R110). -/

namespace Sys2Proof.Machine

/-- The covered bytes of the frame that the build operands of `s` spell (42_encode.md R100 line 5). -/
def operandFrame (s : State) : List Byte :=
  frameToBuild s (operandByte s .fn) (operandByte s .reg) (operandByte s .cnt) (bufSeq s)

theorem bufSeq_length (s : State) : (bufSeq s).length = s.opd.bLen.toNat := by
  rw [← bufBytes_eq_bufSeq, bufBytes_length]

theorem frameToBuild_eq_builtBytes (s : State) (fn reg cnt : Byte) (data : List Byte) :
    frameToBuild s fn reg cnt data = builtBytes (addrOf (addrStripped s)) fn reg cnt data := rfl

theorem operandFrame_length (s : State) : (operandFrame s).length = 13 + s.opd.bLen.toNat := by
  rw [operandFrame, frameToBuild_eq_builtBytes, builtBytes_length, bufSeq_length]

theorem hexseq_eq_flatMap (bs : List Byte) : hexseq bs = bs.flatMap hex2 := by
  induction bs with
  | nil => rfl
  | cons b bs ih => rw [hexseq, ih, List.flatMap_cons]

theorem frameText_eq_tokenOf (f : List Byte) : frameText f = tokenOf (f ++ [lrc f]) := by
  rw [frameText, tokenOf, hexseq_eq_flatMap]
  rfl

theorem frameText_operandFrame_length (s : State) :
    (frameText (operandFrame s)).length = 30 + 2 * s.opd.bLen.toNat := by
  rw [frameText_eq_tokenOf, tokenOf_length, List.length_append, operandFrame_length, List.length_singleton]
  omega

theorem afterBuild_eq_builtState (s : State) :
    afterBuild s = builtState s (.holding (frameText (operandFrame s))) .ok .none := by
  rw [operandFrame, ← bufBytes_eq_bufSeq, frameText_eq_tokenOf]
  rfl

theorem execFrmBuild_of_fits {s : State} (haddr : AddressOk s) (hfits : 30 + 2 * s.opd.bLen.toNat ≤ s.cfg.txMax) :
    exec .frmBuild s = .next (builtState s (.holding (frameText (operandFrame s))) .ok .none) := by
  rw [execFrmBuild_of_addressOk haddr hfits, afterBuild_eq_builtState]

/-- A build that fails with a cause clears the transmit group (42_encode.md R100, 60_exceptions.md R124). -/
theorem execFrmBuild_of_error {s : State} {c : Cause} (h : buildToken s.cfg (addrText s) (operandByte s .fn)
      (operandByte s .reg) (operandByte s .cnt) (bufBytes s) = .error c) :
    exec .frmBuild s = .next (builtState s .empty .caller c) := by
  rw [exec, execFrmBuild, h]
  rfl

/-- The three ends of a build, with the whole state each leaves (42_encode.md R100). -/
theorem execFrmBuild_cases (s : State) :
    (¬ AddressOk s ∧ exec .frmBuild s = .next (builtState s .empty .caller .addr))
      ∨ (AddressOk s ∧ s.cfg.txMax < 30 + 2 * s.opd.bLen.toNat
          ∧ exec .frmBuild s = .next (builtState s .empty .caller .len))
      ∨ (AddressOk s ∧ 30 + 2 * s.opd.bLen.toNat ≤ s.cfg.txMax
          ∧ exec .frmBuild s = .next (builtState s (.holding (frameText (operandFrame s))) .ok .none)) := by
  have hcases := buildToken_cases s.cfg (addrText s) (operandByte s .fn) (operandByte s .reg) (operandByte s .cnt)
    (bufBytes s)
  rw [← Bool.not_eq_true, addrIsOk_addrText_iff, bufBytes_length] at hcases
  rcases hcases with ⟨hbad, herr⟩ | ⟨haddr, hlong, herr⟩ | ⟨haddr, hfits, -⟩
  · exact .inl ⟨hbad, execFrmBuild_of_error herr⟩
  · exact .inr (.inl ⟨haddr, hlong, execFrmBuild_of_error herr⟩)
  · exact .inr (.inr ⟨haddr, hfits, execFrmBuild_of_fits haddr hfits⟩)

/-- Settles O27: by the three ends of a build, which exclude each other. -/
theorem buildResult : Obligations.BuildResult := by
  refine ⟨rfl, fun s => ?_⟩
  rcases execFrmBuild_cases s with ⟨hbad, hexec⟩ | ⟨haddr, hlong, hexec⟩ | ⟨haddr, hfits, hexec⟩
  · exact ⟨_, fun _ => ⟨hexec, rfl⟩, fun haddr => absurd haddr hbad, fun haddr => absurd haddr hbad⟩
  · exact ⟨_, absurd haddr, fun _ _ => ⟨hexec, rfl⟩, fun _ hfits => absurd hfits (Nat.not_le.mpr hlong)⟩
  · exact ⟨_, absurd haddr, fun _ hlong => absurd hlong (Nat.not_lt.mpr hfits),
      fun _ _ => ⟨hexec, frameText_operandFrame_length s, txBytes_holding _⟩⟩

/-- FRM.WRCMD leaves what the build it stands for leaves, its own operands untouched (42_encode.md R110). -/
theorem execFrmWrcmd_of_build {s : State} {g : TxGroup} {st : Status} {c : Cause}
    (h : exec .frmBuild (asBuild s) = .next (builtState (asBuild s) g st c)) :
    exec .frmWrcmd s = .next (builtState s g st c) := by
  obtain ⟨t, u, ht, hu, rfl⟩ := writeCommandIsABuild s
  obtain rfl := Host.Outcome.next.inj (hu.symm.trans h)
  exact ht

theorem bufSeq_asBuild (s : State) : bufSeq (asBuild s) = [operandByte s .val] := rfl

/-- The frame that FRM.WRCMD makes, byte by byte (42_encode.md R110). -/
theorem operandFrame_asBuild (s : State) : operandFrame (asBuild s) =
    [addressByte s 0, addressByte s 1, addressByte s 2, addressByte s 3, addressByte s 4, addressByte s 5,
      0x00, 0x00, 0x01, operandByte s .reg, 0x01, 0x01, 0x00, operandByte s .val] := by
  rw [operandFrame, bufSeq_asBuild, frameToBuild, List.length_singleton]
  rfl

/-- Settles O28: the result of a build (O27) on the operands FRM.WRCMD substitutes, whose one data byte makes the
text 32 characters. -/
theorem writeCommandResult : Obligations.WriteCommandResult := by
  refine ⟨rfl, fun s hroom => ?_⟩
  obtain ⟨g, hbad, -, hgood⟩ := buildResult.2 (asBuild s)
  refine ⟨g, fun hnot => ?_, fun haddr => ?_⟩
  · obtain ⟨hexec, hlen⟩ := hbad hnot
    exact ⟨execFrmWrcmd_of_build hexec, hlen⟩
  · obtain ⟨hexec, hlen, htext⟩ := hgood haddr hroom
    exact ⟨execFrmWrcmd_of_build hexec, hlen, htext.trans (congrArg frameText (operandFrame_asBuild s))⟩

end Sys2Proof.Machine

/-! A built text character by character (42_encode.md R107). -/

namespace Sys2Proof.Machine

@[simp] theorem builtState_txg (s : State) (g : TxGroup) (st : Status) (c : Cause) :
    (builtState s g st c).txg = g := rfl

@[simp] theorem holding_txLen (tok : List Byte) : (TxGroup.holding tok).txLen = tok.length := rfl

theorem readCell_holding (tok : List Byte) (i : Nat) : readCell (TxGroup.holding tok).tx i = tok[i]? := by
  rw [TxGroup.holding, readCell_cellsFrom, if_pos (Nat.zero_le i), Nat.sub_zero]

/-- A digit of a token stands one behind its place among the digits, after the opening brace. -/
theorem tokenOf_getElem?_succ (f : List Byte) {p : Nat} (hp : p < 2 * f.length) :
    (tokenOf f)[p + 1]? = some ((hexseq f).getD p 0) := by
  have hlen : p < (hexseq f).length := by rwa [hexseq_length]
  rw [tokenOf, List.getElem?_cons_succ, List.getElem?_append_left hlen, List.getD_eq_getElem _ _ hlen,
    List.getElem?_eq_getElem hlen]

theorem tokenOf_getElem?_last (f : List Byte) : (tokenOf f)[2 * f.length + 1]? = some closeBrace := by
  rw [tokenOf, List.getElem?_cons_succ, ← hexseq_length, List.getElem?_concat_length]

/-- Settles O30: the transmit group holds the token of the frame with its checksum, and a token is an opening brace,
the digits of its bytes and a closing brace. -/
theorem builtTextCharacters : Obligations.BuiltTextCharacters := by
  intro s t haddr hfits hexec
  obtain rfl := Host.Outcome.next.inj ((execFrmBuild_of_fits haddr hfits).symm.trans hexec)
  have hlen : (operandFrame s ++ [lrc (operandFrame s)]).length = 14 + s.opd.bLen.toNat := by
    rw [List.length_append, operandFrame_length, List.length_singleton]
    omega
  have hlast := tokenOf_getElem?_last (operandFrame s ++ [lrc (operandFrame s)])
  have htxLen := frameText_operandFrame_length s
  refine ⟨htxLen, rfl, ?_, fun k hk => ?_⟩
  · rw [builtState_txg, readCell_holding, holding_txLen, htxLen, frameText_eq_tokenOf]
    rwa [hlen, show 2 * (14 + s.opd.bLen.toNat) + 1 = 30 + 2 * s.opd.bLen.toNat - 1 by omega] at hlast
  · rw [builtState_txg, readCell_holding, readCell_holding, frameText_eq_tokenOf, tokenOf_getElem?_succ _ (by omega),
      tokenOf_getElem?_succ _ (by omega), hexseq_getD_even _ k (by omega), hexseq_getD_odd _ k (by omega)]
    exact ⟨rfl, rfl⟩

end Sys2Proof.Machine

/-! The build reads an address only as twelve digits in either case (42_encode.md R101, R102, R109). -/

namespace Sys2Proof.Machine

theorem addrIsOk_addrStripped_iff (s : State) : addrIsOk (addrStripped s) = true ↔ AddressOk s := by
  rw [← normaliseAddr_addrText, addrIsOk_addrText_iff]

theorem addrIsOk_map_upper (a : List Byte) : addrIsOk (a.map upper) = addrIsOk a := by
  rw [addrIsOk, List.length_map, all_ishex_map_upper, addrIsOk]

theorem addrOf_map_upper {a : List Byte} (h : addrIsOk a = true) : addrOf (a.map upper) = addrOf a := by
  obtain ⟨hlen, hhex⟩ : a.length = 12 ∧ a.all ishex = true := by
    simpa only [addrIsOk, Bool.and_eq_true, beq_iff_eq] using h
  have digit {p : Nat} (hp : p < 12) : ishex (a.getD p 0) = true :=
    ishex_getD_of_all hlen.ge (by rwa [← hlen, List.take_length]) hp
  have same {k : Nat} (hk : k < 6) : byteAt (a.map upper) k = byteAt a k :=
    byteAt_map_upper (digit (by omega)) (digit (by omega))
  simp [addrOf, same]

section
variable {s u : State} (haddr : AddressOk s) (hform : (addrStripped u).map upper = (addrStripped s).map upper)
include haddr hform

theorem addressOk_of_map_upper : AddressOk u := by
  rw [← addrIsOk_addrStripped_iff, ← addrIsOk_map_upper] at haddr ⊢
  rwa [hform]

theorem addrOf_addrStripped_of_map_upper : addrOf (addrStripped u) = addrOf (addrStripped s) := by
  have haddru := addressOk_of_map_upper haddr hform
  rw [← addrIsOk_addrStripped_iff] at haddr haddru
  rw [← addrOf_map_upper haddru, hform, addrOf_map_upper haddr]

end

/-- Settles O31: both builds hold the text of one frame, since the six address bytes and every other operand agree. -/
theorem buildIgnoresAddressForm : Obligations.BuildIgnoresAddressForm := by
  intro s u haddr hfits hcfg hfn hreg hcnt hbuf hform
  have hframe : operandFrame u = operandFrame s := by
    rw [operandFrame, frameToBuild_eq_builtBytes, addrOf_addrStripped_of_map_upper haddr hform, hfn, hreg, hcnt, hbuf,
      ← frameToBuild_eq_builtBytes, operandFrame]
  have hfitsu : 30 + 2 * u.opd.bLen.toNat ≤ u.cfg.txMax := by
    rwa [← bufSeq_length, hbuf, bufSeq_length, hcfg]
  exact ⟨_, _, execFrmBuild_of_fits haddr hfits, execFrmBuild_of_fits (addressOk_of_map_upper haddr hform) hfitsu,
    congrArg (fun f => TxGroup.holding (frameText f)) hframe, rfl⟩

end Sys2Proof.Machine

/-! What an operation and a step leave in `STATUS`, `CAUSE` and the two event outputs (60_exceptions.md R115, R116,
R120 to R123). -/

namespace Sys2Proof.Machine

/-- No cause comes with `ST_IDLE` (60_exceptions.md R116). -/
theorem Cause.status_ne_idle (c : Cause) : c.status ≠ .idle := by
  cases c <;> decide

theorem csumEvent_iff (st : Status) : csumEvent st = true ↔ st = .checksum := by
  rw [csumEvent, beq_iff_eq]

theorem malfEvent_iff (st : Status) : malfEvent st = true ↔ st = .malformed ∨ st = .noSnap := by
  rw [malfEvent, Bool.or_eq_true, beq_iff_eq, beq_iff_eq]

/-- The outcome of an operation stands in the state: a cause, the `STATUS` it comes with, and that status's events. -/
structure HasOutcome (t : State) : Prop where
  status : t.status = t.cause.status
  evCsum : t.evCsum = csumEvent t.status
  evMalf : t.evMalf = malfEvent t.status

theorem decodeRx_hasOutcome (s : State) : HasOutcome (decodeRx s) := by
  unfold decodeRx
  rcases parseToken_cases s.cfg (rxText s) with ⟨c, hc, h⟩ | h | ⟨v, -, -, h⟩ | ⟨v, -, -, h⟩ <;> rw [h]
  · exact ⟨hc.symm, rfl, rfl⟩
  · exact ⟨rfl, rfl, rfl⟩
  · exact ⟨rfl, rfl, rfl⟩
  · exact ⟨rfl, rfl, rfl⟩

theorem commitBuild_hasOutcome (s : State) (addr : List Byte) (fn reg cnt : Byte) (data : List Byte) :
    HasOutcome (commitBuild s (buildToken s.cfg addr fn reg cnt data)) := by
  rcases buildToken_cases s.cfg addr fn reg cnt data with ⟨-, h⟩ | ⟨-, -, h⟩ | ⟨-, -, h⟩ <;> rw [h]
  · exact ⟨rfl, rfl, rfl⟩
  · exact ⟨rfl, rfl, rfl⟩
  · exact ⟨rfl, rfl, rfl⟩

/-- Every instruction, the receipt of a frame included, ends in the commit of an outcome (60_exceptions.md R120). -/
theorem exec_hasOutcome {i : Instr} {s t : State} (h : exec i s = .next t) : HasOutcome t := by
  rcases exec_next_cases h with ⟨-, rfl⟩ | ⟨-, rfl⟩ | ⟨-, rfl⟩ | ⟨-, rfl⟩ | ⟨-, rfl⟩ | ⟨-, rfl⟩ | ⟨-, f, -, rfl⟩
  · exact ⟨rfl, rfl, rfl⟩
  · exact ⟨rfl, rfl, rfl⟩
  · exact decodeRx_hasOutcome s
  · exact commitBuild_hasOutcome ..
  · exact commitBuild_hasOutcome ..
  · exact ⟨rfl, rfl, rfl⟩
  · exact decodeRx_hasOutcome _

theorem exists_exec_of_operation {i : Instr} (s : State) (hi : isOperation i = true) :
    ∃ t, exec i s = .next t := by
  cases i with
  | frameWriteCommand | frameGeneral => cases hi
  | _ => exact ⟨_, rfl⟩

/-- Settles O39: an operation word answers a next state, and commits there a cause with its status. -/
theorem operationsNeverStop : Obligations.OperationsNeverStop := by
  intro i s hi
  obtain ⟨t, ht⟩ := exists_exec_of_operation s hi
  have hstatus := (exec_hasOutcome ht).status
  exact ⟨t, ht, hstatus ▸ t.cause.status_ne_idle, hstatus⟩

/-- Settles O42: each event is a function of the status committed with it, and no status drives both. -/
theorem eventsMatchTheOutcome : Obligations.EventsMatchTheOutcome := by
  intro i s t ht
  obtain ⟨-, hcsum, hmalf⟩ := exec_hasOutcome ht
  rw [hcsum, hmalf, csumEvent_iff, malfEvent_iff]
  refine ⟨Iff.rfl, Iff.rfl, ?_⟩
  rintro ⟨hst, hst' | hst'⟩ <;> cases hst.symm.trans hst'

/-- What a step from `s` to `t` can do to `STATUS`, `CAUSE` and the event outputs. -/
inductive OutcomeAfter (s t : State) : Prop
  | issued (hd : HostStep) (rest : List HostStep) (hin : s.inbox = hd :: rest)
      (hissue : (∃ w, hd = .issue w) ∨ ∃ v, hd = .write .op v) (h : HasOutcome t)
  | kept (hstatus : t.status = s.status) (hcause : t.cause = s.cause) (hcsum : t.evCsum = false)
      (hmalf : t.evMalf = false)
  | reset (rest : List HostStep) (hin : s.inbox = .reset :: rest) (hstatus : t.status = .idle)
      (hcause : t.cause = .none) (hcsum : t.evCsum = false) (hmalf : t.evMalf = false)

/-- Only an issue commits an outcome; every other step is quiet, and of those only reset touches the pair. -/
theorem step_outcomeAfter {s t : State} (h : step s = .next t) : OutcomeAfter s t := by
  rcases step_next_cases h with ⟨-, rfl⟩ | ⟨hd, rest, i, hin, hissue, hi⟩ | ⟨r, v, rest, -, -, -, -, rfl⟩
    | ⟨r, rest, -, -, -, rfl⟩ | ⟨rest, hin, rfl⟩
  · exact .kept rfl rfl rfl rfl
  · exact .issued hd rest hin hissue (exec_hasOutcome hi)
  · exact .kept rfl rfl rfl rfl
  · rcases readRegister_cases r { s with inbox := rest } with ⟨v, -, h⟩ | ⟨-, h⟩ <;> rw [h] <;>
      exact .kept rfl rfl rfl rfl
  · exact .reset rest hin rfl rfl rfl rfl

/-- Without a host step the block only lowers its event outputs (70_reset_and_hazards.md R135). -/
theorem step_of_inbox_nil {s : State} (hin : s.inbox = []) : step s = .next (quiet s) := by
  rw [step, runInbox, hin]

/-- Settles O43: a step that issues nothing keeps the outcome or resets it, with both outputs at 0. -/
theorem stepsWithoutAnIssueAssertNoEvent : Obligations.StepsWithoutAnIssueAssertNoEvent := by
  refine ⟨fun _ hin => step_of_inbox_nil hin, fun s t hd rest hin hnoIssue hnoOp hst => ?_⟩
  rcases step_outcomeAfter hst with ⟨hd', rest', hin', hissue, -⟩ | ⟨-, -, hcsum, hmalf⟩ | ⟨-, -, -, -, hcsum, hmalf⟩
  · obtain rfl : hd' = hd := (List.cons.inj (hin'.symm.trans hin)).1
    rcases hissue with ⟨w, hw⟩ | ⟨v, hv⟩
    · exact absurd hw (hnoIssue w)
    · exact absurd hv (hnoOp v)
  · exact ⟨hcsum, hmalf⟩
  · exact ⟨hcsum, hmalf⟩

/-- Settles O56: a step commits a cause with its status, keeps the pair, or resets it. -/
theorem stepKeepsOutcomeLegal : Obligations.StepKeepsOutcomeLegal := by
  intro s t hs hst
  rcases step_outcomeAfter hst with ⟨-, -, -, -, h⟩ | ⟨hstatus, hcause, -, -⟩ | ⟨-, -, hstatus, hcause, -, -⟩
  · exact .inr h.status
  · rwa [OutcomeLegal, hstatus, hcause]
  · exact .inl ⟨hstatus, hcause⟩

end Sys2Proof.Machine

/-! `ST_IDLE` is the status of reset and of no operation's outcome (60_exceptions.md R115,
70_reset_and_hazards.md R136). -/

namespace Sys2Proof.Machine

theorem HasOutcome.status_ne_idle {t : State} (h : HasOutcome t) : t.status ≠ .idle :=
  h.status ▸ t.cause.status_ne_idle

/-- Settles O44: a committed outcome is never `ST_IDLE`, and a step that commits none keeps `STATUS` or is the reset. -/
theorem onlyResetGivesIdle : Obligations.OnlyResetGivesIdle := by
  intro s t hst hidle
  rcases step_outcomeAfter hst with ⟨-, -, -, -, h⟩ | ⟨hstatus, -, -, -⟩ | ⟨rest, hin, -, -, -, -⟩
  · exact absurd hidle h.status_ne_idle
  · exact .inl (hstatus ▸ hidle)
  · exact .inr ⟨rest, hin⟩

end Sys2Proof.Machine

/-! No step changes the configuration (00_scope.md section 4; log 3). -/

namespace Sys2Proof.Machine

/-- Settles O53: an operation, a receipt, a host write or read and the reset each leave `cfg` alone, so it is part of
what `StepEffect` says of every step. -/
theorem stepKeepsConfiguration : Obligations.StepKeepsConfiguration := by
  intro s t hst
  exact (step_stepEffect hst).config

end Sys2Proof.Machine
